-- ==== Sys2Proof/Word.lean ====
section
/-! DEFINITION. The word types of the block: every bus datum is one byte (R12), a register address on the bus has six bits (R64).
-/

namespace Sys2Proof

/-- A byte: the width of every bus datum (R12). -/
abbrev Byte := BitVec 8

/-- A PCD register address as it stands on the bus: six bits (R64, R72). -/
abbrev RegAddr := BitVec 6

end Sys2Proof
end

