-- ==== Sys2Proof/Config.lean ====
section
/-! DEFINITION. What an implementation fixes: the shape of the parameters of R7 and R8, and the FREE values, opaque constants with
no body: the open parameters of R8 and the bytes the PCD returns (R66). The numbers of R6 and the defaults of R7 are in
Machine/Constants.lean. -/

namespace Sys2Proof.Config

/-- One step of `INIT_SEQUENCE` (R278). -/
inductive InitStep where
  /-- `W(a, v)`: `BusWrite(a, v)`. -/
  | w (a v : Byte)
  /-- `S(a, m)`: `SetBits(a, m)`. -/
  | s (a m : Byte)
  /-- `C(a, m)`: `ClearBits(a, m)`. -/
  | c (a m : Byte)
  /-- `DLY(ms)`: `Delay(ms)`. -/
  | dly (ms : Nat)
deriving DecidableEq, Repr

/-- The open parameters of R8: the document names each and gives no value. A claim holds for every value of them. -/
structure Open where
  /-- `PRESENT_BITFRAMING`: the byte WAITPRESENT writes to the bit-framing register (R219). -/
  presentBitframing : Byte
  /-- `PRESENT_MATCH`: the detection bit pattern of WAITPRESENT (R219). -/
  presentMatch : Byte → Bool
  /-- `REMOVED_MATCH`: the departure bit pattern of WAITREMOVED (R225). -/
  removedMatch : Byte → Bool
  /-- `INIT_SEQUENCE`: what INIT does between the soft reset and the version read, by hint (R278). -/
  initSequence : Byte → List InitStep
  /-- `VERSION_OK`: which firmware-version bytes count as a responsive IC (R277). -/
  versionOk : Byte → Bool
  /-- `CRC_A`: the function the PCD's coprocessor computes, (low, mid) (R8, R166). A parameter of the environment: the engine's rules
  never evaluate it, only the contract of R82 does. -/
  crcA : List Byte → Byte × Byte

/-- All parameters of a model of the block: those of R7, which this spec gives a default that no source confirms, and the open
ones of R8. Each definition of Machine/ that depends on a parameter takes it from such a record. -/
structure Params extends Open where
  /-- `CS_ACTIVE_LEVEL`: the electrical level of an asserted chip-select, `false` for low (D7). -/
  csActiveLevel : Bool
  /-- `DUMMY_BYTE` (D8). -/
  dummyByte : Byte
  /-- `REG_IRQEN` (D9). -/
  regIrqen : Byte
  /-- `REG_IRQST` (D9). -/
  regIrqst : Byte
  /-- `REG_CRCIRQ` (D9). -/
  regCrcirq : Byte
  /-- `IRQ_GLOBAL_EN` (D10). -/
  irqGlobalEn : Byte
  /-- `IRQ_CLEAR_MASK` (D11). -/
  irqClearMask : Byte
  /-- `FIFO_FLUSH` (D12). -/
  fifoFlush : Byte
  /-- `START_SEND` (D13). -/
  startSend : Byte
  /-- `TIMER_IRQ` (D14). -/
  timerIrq : Byte
  /-- `LASTBITS_MASK` (D15). -/
  lastbitsMask : Byte
  /-- `CRC_DONE` (D16). -/
  crcDone : Byte
  /-- `REG_CRC_LO` (D17). -/
  regCrcLo : Byte
  /-- `REG_CRC_MID` (D17). -/
  regCrcMid : Byte
  /-- `BITFRAMING_SHORT` (D18). -/
  bitframingShort : Byte
  /-- `BITFRAMING_FULL` (D18). -/
  bitframingFull : Byte

/-- FREE VALUE: `PRESENT_BITFRAMING` of the machine (R8). -/
opaque presentBitframing : Byte

/-- FREE VALUE: `PRESENT_MATCH` of the machine (R8). -/
opaque presentMatch : Byte → Bool

/-- FREE VALUE: `REMOVED_MATCH` of the machine (R8). -/
opaque removedMatch : Byte → Bool

/-- FREE VALUE: `INIT_SEQUENCE` of the machine (R8). -/
opaque initSequence : Byte → List InitStep

/-- FREE VALUE: `VERSION_OK` of the machine (R8). -/
opaque versionOk : Byte → Bool

/-- FREE VALUE: `CRC_A` of the PCD (R8, R166). -/
opaque crcA : List Byte → Byte × Byte

/-- FREE VALUE: the byte the PCD returns to the n-th bus read since power-on, where the state lists no answer for it (R66: any
byte, on every read). -/
opaque oracle : Nat → Byte

end Sys2Proof.Config
end

