-- ==== Sys2Proof/Machine/Constants.lean ====
section
/-! DEFINITION. The numbers: the fixed constants of R6, the register map of R38, the defaults of R7, and the parameter record the
machine runs with. -/

namespace Sys2Proof.Machine

/-! ### The PCD register map (R38). -/

def regCommand : Byte := 0x01
def regIrqen0 : Byte := 0x02
def regIrqen1 : Byte := 0x03
def regIrqst0 : Byte := 0x04
def regIrqst1 : Byte := 0x05
def regError : Byte := 0x06
def regFifodata : Byte := 0x09
def regFifolevel : Byte := 0x0A
def regControl : Byte := 0x0C
def regBitframing : Byte := 0x0D
def regTxcontrol : Byte := 0x14
def regCrcresMid : Byte := 0x21
def regCrcresLo : Byte := 0x22
def regRfcfg : Byte := 0x26
def regTimer0 : Byte := 0x2A
def regTimer1 : Byte := 0x2B
def regTimer2 : Byte := 0x2C
def regTimer3 : Byte := 0x2D
def regTimer4 : Byte := 0x2E
def regTimer5 : Byte := 0x2F
def regVersion : Byte := 0x37

/-- The map of R38: every address the document names, with this spec's name for it. Every other address is valid on the bus and
unnamed (R54). -/
def registerMap : List (Byte × String) :=
  [(regCommand, "COMMAND"), (regIrqen0, "IRQEN0"), (regIrqen1, "IRQEN1"), (regIrqst0, "IRQST0"), (regIrqst1, "IRQST1"),
   (regError, "ERROR"), (regFifodata, "FIFODATA"), (regFifolevel, "FIFOLEVEL"), (regControl, "CONTROL"),
   (regBitframing, "BITFRAMING")] ++
  [(regTxcontrol, "TXCONTROL"), (regCrcresMid, "CRCRES_MID"), (regCrcresLo, "CRCRES_LO"), (regRfcfg, "RFCFG"),
   (regTimer0, "TIMER0"), (regTimer1, "TIMER1"), (regTimer2, "TIMER2"), (regTimer3, "TIMER3"), (regTimer4, "TIMER4"),
   (regTimer5, "TIMER5"), (regVersion, "VERSION")]

/-! ### The register address range and its pages (R6, R37). -/

/-- `REG_ADDR_MIN`. -/
def regAddrMin : RegAddr := 0x00
/-- `REG_ADDR_MAX`. -/
def regAddrMax : RegAddr := 0x3F

/-- The four fixed pages of the PCD's registers (R6 `REG_PAGES`, R37). -/
inductive RegPage where
  | commandStatus
  | command
  | configuration
  | test
deriving DecidableEq, Repr

/-- `REG_PAGES`: the pages in the document's order. -/
def regPages : List RegPage := [.commandStatus, .command, .configuration, .test]
/-- `REG_PAGES`: the registers of a page. -/
def regPageSize : Nat := 16

/-- The page a register address lies in. That the names follow the addresses in the document's order is R37's own derivation. No
operation depends on it: every address is reached directly (R37). -/
def pageOf (a : RegAddr) : RegPage := regPages.getD (a.toNat / regPageSize) .test

/-! ### Limits and loop ceilings (R6). -/

/-- `FIFO_CAPACITY`: also the largest legal `LEN` (R184). -/
def fifoCapacity : Nat := 64
/-- `DRAIN_CAP`. -/
def drainCap : Nat := 16
/-- `EXEC_POLL_MAX`. -/
def execPollMax : Nat := 2000
/-- `EXEC_POLL_DELAY_MS`. -/
def execPollDelayMs : Nat := 10
/-- `CRC_POLL_MAX`. -/
def crcPollMax : Nat := 255
/-- `PRESENT_DELAY_MS`. -/
def presentDelayMs : Nat := 5
/-- `REMOVED_DELAY_MS`. -/
def removedDelayMs : Nat := 1

/-! ### Masks by command kind, and the error mask (R6). -/

def irqenAuthent : Byte := 0x12
def waitAuthent : Byte := 0x10
def irqenTransceive : Byte := 0x77
def waitTransceive : Byte := 0x30
def irqenOther : Byte := 0x00
def waitOther : Byte := 0x00
def errMask : Byte := 0x1B

/-! ### PCD command bytes (R6, R109). -/

def cmdIdleByte : Byte := 0x00
def cmdCalccrcByte : Byte := 0x03
def cmdTransceiveByte : Byte := 0x0C
def cmdAuthentByte : Byte := 0x0E
def cmdSoftresetByte : Byte := 0x0F

/-! ### Card commands and frame bytes (R6, R112 to R115). -/

def piccReqa : Byte := 0x26
def piccAnticoll : Byte := 0x93
def piccSelectByte : Byte := 0x93
def piccHaltByte : Byte := 0x50
def nvbAnticoll : Byte := 0x20
def nvbSelect : Byte := 0x70
def haltSecondByte : Byte := 0x00
/-- `ATQA_BITS`. -/
def atqaBits : BitVec 16 := 16
/-- `SAK_BITS`. -/
def sakBits : BitVec 16 := 24
/-- `SHORT_FRAME_BITS`: the bits of the request short frame. -/
def shortFrameBits : Nat := 7

/-! ### SAK bits (R6). -/

def sakCascade : Byte := 0x04
def sakIso14443 : Byte := 0x20
def sakIso18092 : Byte := 0x40

/-- `DUMMY_BYTE` (R7, D8). -/
def dummyByteDefault : Byte := 0x00

/-- The defaults of R7 around a choice of the open parameters. Every value here is the spec's decision (D7 to D18), confirmed by
no source. -/
def paramsOf (o : Config.Open) : Config.Params where
  toOpen := o
  csActiveLevel := false
  dummyByte := dummyByteDefault
  regIrqen := regIrqen0
  regIrqst := regIrqst0
  regCrcirq := regIrqst1
  irqGlobalEn := 0x80
  irqClearMask := 0x80
  fifoFlush := 0x80
  startSend := 0x80
  timerIrq := 0x01
  lastbitsMask := 0x07
  crcDone := 0x04
  regCrcLo := regCrcresLo
  regCrcMid := regCrcresMid
  bitframingShort := 0x07
  bitframingFull := 0x00

/-- The machine's open parameters: the free values of R8. -/
def machineOpen : Config.Open where
  presentBitframing := Config.presentBitframing
  presentMatch := Config.presentMatch
  removedMatch := Config.removedMatch
  initSequence := Config.initSequence
  versionOk := Config.versionOk
  crcA := Config.crcA

/-- The parameters the machine runs with: the defaults of R7 and the free values of R8. -/
def params : Config.Params := paramsOf machineOpen

/-! ### The default of `CRC_A` (R166). -/

/-- One shift of the CRC register (R166). -/
def crcShift (c : BitVec 16) : BitVec 16 := if c.getLsbD 0 then (c >>> 1) ^^^ 0x8408 else c >>> 1

/-- One input byte of the CRC: eight shifts (R166). -/
def crcFeed (c : BitVec 16) (b : Byte) : BitVec 16 := Nat.repeat crcShift 8 (c ^^^ b.setWidth 16)

/-- The default `CRC_A` of R166, (low, mid). PRESUMED by the spec itself (D32), log entry 6. -/
def crcADefault (bytes : List Byte) : Byte × Byte :=
  let c := bytes.foldl crcFeed 0x6363
  (c.extractLsb' 0 8, c.extractLsb' 8 8)

/-- The illustrative instance `P0` (R219, R225, R277, R279), with the default `CRC_A`. For test vectors only: the machine does not
run with it and no statement rests on it. -/
def instanceP0 : Config.Open where
  presentBitframing := 0x87
  presentMatch n := (n &&& 0x20) != 0
  removedMatch n := (n &&& 0x01) != 0
  initSequence _ := [.dly 50, .w 0x2A 0x8D, .w 0x2B 0x3E, .w 0x2D 0x1E, .w 0x2C 0x00, .w 0x26 0x70, .s 0x14 0x03]
  versionOk v := v != 0x00 && v != 0xFF
  crcA := crcADefault

end Sys2Proof.Machine
end

