-- ==== Sys2Proof/Syntax.lean ====
section
/-! DEFINITION. The syntax: one constructor per row of spec/opcode_table.json, over the four formats of R100 with an encoding of
their own (`HOP`; `BUSRD` and `BUSWR`; `PCDCMD`; `PICC`). -/

namespace Sys2Proof

/-- The formats of R100. `bus` stands for `BUSRD` and `BUSWR` together: bit 15 of the sixteen bits sent tells them apart (R106,
R107). The four are separate code spaces: a byte may be an operation code in one and a PCD command in another. -/
inductive Format where
  /-- `HOP`: the 4-bit operation code of the host (R101). -/
  | hop
  /-- `BUSRD`, `BUSWR`: the two bytes sent in one bus transaction (R105). -/
  | bus
  /-- `PCDCMD`: the byte written to `COMMAND` (R109). -/
  | pcdcmd
  /-- `PICC`: the frame written to the FIFO and transmitted to the card (R111). -/
  | picc
deriving DecidableEq, Repr

/-- The instructions. A host operation has no fields of its own: its operands stand in the operand registers (R101). -/
inductive Instr where
  /-- `READREG`: `VAL <- BusRead(A)` (R140). -/
  | readreg
  /-- `WRITEREG`: `BusWrite(A, D)` (R141). -/
  | writereg
  /-- `SETBITS` (R146). -/
  | setbits
  /-- `CLRBITS` (R147). -/
  | clrbits
  /-- `CALCCRC` (R160). -/
  | calccrc
  /-- `TOCARD` (R180). -/
  | tocard
  /-- `ISPRESENT` (R213). -/
  | ispresent
  /-- `WAITPRESENT` (R218). -/
  | waitpresent
  /-- `WAITREMOVED` (R224). -/
  | waitremoved
  /-- `READUID` (R241). -/
  | readuid
  /-- `SELECT` (R246). -/
  | select
  /-- `CLASSIFY` (R260). -/
  | classify
  /-- `HALT` (R271). -/
  | halt
  /-- `INIT` (R276). -/
  | init
  /-- `OP` = 0xE: reserved, refused with `STATUS <- Error` (R118). -/
  | reservedE
  /-- `OP` = 0xF: reserved, refused with `STATUS <- Error` (R118). -/
  | reservedF
  /-- `BUSRD`: the bus register read of address `a` (R106). -/
  | busrd (a : RegAddr)
  /-- `BUSWR`: the bus register write of `v` to address `a` (R107). -/
  | buswr (a : RegAddr) (v : Byte)
  /-- `CMD_IDLE` (R109). -/
  | cmdIdle
  /-- `CMD_CALCCRC` (R109). -/
  | cmdCalccrc
  /-- `CMD_TRANSCEIVE` (R109). -/
  | cmdTransceive
  /-- `CMD_AUTHENT` (R109). -/
  | cmdAuthent
  /-- `CMD_SOFTRESET` (R109). -/
  | cmdSoftreset
  /-- `CMD_OTHER`: any byte but the five named ones (R110). -/
  | cmdOther (c : Byte)
  /-- `PICC_REQUEST`: the one-byte request frame (R112). -/
  | piccRequest (m : Byte)
  /-- `PICC_ANTICOLLISION`: the frame 0x93 0x20 (R113). -/
  | piccAnticollision
  /-- `PICC_SELECT`: the nine-byte select frame: four UID bytes, the checksum byte and the two CRC bytes (R114). -/
  | piccSelect (u0 u1 u2 u3 u4 c0 c1 : Byte)
  /-- `PICC_HALT`: the four-byte halt frame with its two CRC bytes (R115). -/
  | piccHalt (c0 c1 : Byte)
deriving DecidableEq, Repr

end Sys2Proof
end

