-- ==== Sys2Proof/WellFormed.lean ====
section
/-! DEFINITION. Which terms of the syntax stand for an encoding of the spec. -/

namespace Sys2Proof

/-- The five command bytes with a row of their own (R109). -/
def namedCommands : List Byte :=
  [Machine.cmdIdleByte, Machine.cmdCalccrcByte, Machine.cmdTransceiveByte, Machine.cmdAuthentByte, Machine.cmdSoftresetByte]

/-- A term is well formed when its fields are admitted by its row: the one check is that `CMD_OTHER` holds none of the five named
bytes (R110). The widths of all other fields are in their types. -/
def Instr.wellFormed : Instr → Bool
  | .cmdOther c => !namedCommands.contains c
  | .readreg | .writereg | .setbits | .clrbits | .calccrc | .tocard | .ispresent | .waitpresent | .waitremoved | .readuid
  | .select | .classify | .halt | .init | .reservedE | .reservedF | .busrd _ | .buswr _ _ | .cmdIdle | .cmdCalccrc
  | .cmdTransceive | .cmdAuthent | .cmdSoftreset | .piccRequest _ | .piccAnticollision | .piccSelect _ _ _ _ _ _ _
  | .piccHalt _ _ => true

end Sys2Proof
end

