-- ==== Sys2Proof/Decode.lean ====
section
/-! DEFINITION. The decoder of the four formats, total on any bytes and rejecting by name, and after it the encoder, both written
from the encoding tables of 30_encoding.md. -/

namespace Sys2Proof

/-- Why bytes are no encoding of a format. -/
inductive DecodeError where
  /-- The bytes are not as many as the format has (R120). -/
  | length
  /-- A host operation code has four bits: a byte that holds one has its upper four bits clear (R102). -/
  | hopNibble
  /-- An address byte with bit 0 set is never produced (R108). -/
  | busAddressBit
  /-- A register read sends the dummy byte second (R106). -/
  | busDummy
  /-- The bytes are none of the four frames (R112 to R115). -/
  | piccFrame
deriving DecidableEq, Repr

/-- Bits 6 to 1 of an address byte: the register address (R108). -/
def addressField (ab : Byte) : RegAddr := ab.extractLsb' 1 6

/-- Bit 7 of an address byte: 1 for a read (R108). -/
def isReadByte (ab : Byte) : Bool := ab.getLsbD 7

/-- The operation that a 4-bit operation code names (R102). -/
def decodeOp (op : BitVec 4) : Instr :=
  match op.toNat with
  | 0x0 => .readreg
  | 0x1 => .writereg
  | 0x2 => .setbits
  | 0x3 => .clrbits
  | 0x4 => .calccrc
  | 0x5 => .tocard
  | 0x6 => .ispresent
  | 0x7 => .waitpresent
  | 0x8 => .waitremoved
  | 0x9 => .readuid
  | 0xA => .select
  | 0xB => .classify
  | 0xC => .halt
  | 0xD => .init
  | 0xE => .reservedE
  | _ => .reservedF

/-- Format `HOP` held in one byte (R102). -/
def decodeHop (b : Byte) : Except DecodeError Instr :=
  if b.extractLsb' 4 4 = 0 then .ok (decodeOp (b.extractLsb' 0 4)) else .error .hopNibble

/-- Formats `BUSRD` and `BUSWR`: address byte, then data byte (R106, R107). -/
def decodeBus (ab db : Byte) : Except DecodeError Instr :=
  if ab.getLsbD 0 then .error .busAddressBit
  else if isReadByte ab then
    if db = Machine.params.dummyByte then .ok (.busrd (addressField ab)) else .error .busDummy
  else .ok (.buswr (addressField ab) db)

/-- Format `PCDCMD` (R109, R110): equality of the whole byte decides (D24). -/
def decodeCommand (c : Byte) : Instr :=
  if c = Machine.cmdIdleByte then .cmdIdle
  else if c = Machine.cmdCalccrcByte then .cmdCalccrc
  else if c = Machine.cmdTransceiveByte then .cmdTransceive
  else if c = Machine.cmdAuthentByte then .cmdAuthent
  else if c = Machine.cmdSoftresetByte then .cmdSoftreset
  else .cmdOther c

/-- Format `PICC`: the length and the two leading bytes tell the four frames apart (R112 to R115). -/
def decodePicc : List Byte → Except DecodeError Instr
  | [m] => .ok (.piccRequest m)
  | [b0, b1] => if b0 = Machine.piccAnticoll ∧ b1 = Machine.nvbAnticoll then .ok .piccAnticollision else .error .piccFrame
  | [b0, b1, c0, c1] =>
    if b0 = Machine.piccHaltByte ∧ b1 = Machine.haltSecondByte then .ok (.piccHalt c0 c1) else .error .piccFrame
  | [b0, b1, u0, u1, u2, u3, u4, c0, c1] =>
    if b0 = Machine.piccSelectByte ∧ b1 = Machine.nvbSelect then .ok (.piccSelect u0 u1 u2 u3 u4 c0 c1) else .error .piccFrame
  | _ => .error .length

/-- The decoder: the instruction that the bytes encode in a format, the first byte sent (or stored) first. -/
def decode (f : Format) (bytes : List Byte) : Except DecodeError Instr :=
  match f, bytes with
  | .hop, [b] => decodeHop b
  | .hop, _ => .error .length
  | .bus, [ab, db] => decodeBus ab db
  | .bus, _ => .error .length
  | .pcdcmd, [c] => .ok (decodeCommand c)
  | .pcdcmd, _ => .error .length
  | .picc, bs => decodePicc bs

/-! ### The encoder. -/

/-- The format of an instruction's row. -/
def Instr.format : Instr → Format
  | .readreg | .writereg | .setbits | .clrbits | .calccrc | .tocard | .ispresent | .waitpresent | .waitremoved | .readuid
  | .select | .classify | .halt | .init | .reservedE | .reservedF => .hop
  | .busrd _ | .buswr _ _ => .bus
  | .cmdIdle | .cmdCalccrc | .cmdTransceive | .cmdAuthent | .cmdSoftreset | .cmdOther _ => .pcdcmd
  | .piccRequest _ | .piccAnticollision | .piccSelect _ _ _ _ _ _ _ | .piccHalt _ _ => .picc

/-- A 4-bit operation code as the one byte that holds it. -/
def hopByte (op : BitVec 4) : List Byte := [0#4 ++ op]

/-- The bytes of an instruction, first byte first: the table of R102, the bit pictures of R106 and R107, the bytes of R109 and the
frames of R112 to R115. -/
def encode : Instr → List Byte
  | .readreg => hopByte 0x0
  | .writereg => hopByte 0x1
  | .setbits => hopByte 0x2
  | .clrbits => hopByte 0x3
  | .calccrc => hopByte 0x4
  | .tocard => hopByte 0x5
  | .ispresent => hopByte 0x6
  | .waitpresent => hopByte 0x7
  | .waitremoved => hopByte 0x8
  | .readuid => hopByte 0x9
  | .select => hopByte 0xA
  | .classify => hopByte 0xB
  | .halt => hopByte 0xC
  | .init => hopByte 0xD
  | .reservedE => hopByte 0xE
  | .reservedF => hopByte 0xF
  | .busrd a => [1#1 ++ a ++ 0#1, Machine.params.dummyByte]
  | .buswr a v => [0#1 ++ a ++ 0#1, v]
  | .cmdIdle => [Machine.cmdIdleByte]
  | .cmdCalccrc => [Machine.cmdCalccrcByte]
  | .cmdTransceive => [Machine.cmdTransceiveByte]
  | .cmdAuthent => [Machine.cmdAuthentByte]
  | .cmdSoftreset => [Machine.cmdSoftresetByte]
  | .cmdOther c => [c]
  | .piccRequest m => [m]
  | .piccAnticollision => [Machine.piccAnticoll, Machine.nvbAnticoll]
  | .piccSelect u0 u1 u2 u3 u4 c0 c1 => [Machine.piccSelectByte, Machine.nvbSelect, u0, u1, u2, u3, u4, c0, c1]
  | .piccHalt c0 c1 => [Machine.piccHaltByte, Machine.haltSecondByte, c0, c1]

/-! ### The words of spec/opcode_table.json. -/

/-- The `nbits / 8` bytes (one at least) of a table word, its most significant byte first: the table reads a row's bytes as one
number whose highest bits are sent first (R100, R106). -/
def tableBytes (nbits w : Nat) : List Byte :=
  let n := max 1 (nbits / 8)
  (List.range n).map fun k => BitVec.ofNat 8 (w >>> (8 * (n - 1 - k)))

/-- The format in which a table word is read. The table has four code spaces and its words do not say which they are of: a word of
at most eight bits below 16 is a host operation code, any other is a PCD command byte; a 16-bit word is a bus transaction unless
it is the anti-collision frame (whose bit 8 no bus transaction has); a longer one is a frame. DESIGN CHOICE, log entry 8. -/
def tableFormat (nbits w : Nat) : Format :=
  if nbits ≤ 8 then if w < 16 then .hop else .pcdcmd
  else if nbits ≤ 16 then if tableBytes nbits w = [Machine.piccAnticoll, Machine.nvbAnticoll] then .picc else .bus
  else .picc

/-- The instruction the decoder reads from a word of spec/opcode_table.json. -/
def decodeTableWord (nbits w : Nat) : Option Instr :=
  match decode (tableFormat nbits w) (tableBytes nbits w) with
  | .ok i => some i
  | .error _ => none

end Sys2Proof
end

