-- ==== Sys2Proof/Machine/State.lean ====
section
/-! DEFINITION. The state as plain data: every register, bit and buffer of 10_state.md, the sequencer position, the bus with the
bytes the environment has ready and the trace so far, and the model's own request port. -/

namespace Sys2Proof.Machine

/-- `STATUS` and `XST` (R29). The value 3 is never written, so the type has no term for it. -/
inductive Status where
  | ok
  | noTag
  | error
deriving DecidableEq, Repr

/-- The 2-bit code of a status (R29). -/
def Status.code : Status → BitVec 2
  | .ok => 0
  | .noTag => 1
  | .error => 2

/-- `CTYPE` (R33). The codes 10 to 15 are never written, so the type has no term for them. -/
inductive CardType where
  | unknown
  | notComplete
  | mifareMini
  | mifare1K
  | mifare4K
  | mifareUltralight
  | mifarePlus
  | tnp3xxx
  | iso14443_4
  | iso18092
deriving DecidableEq, Repr

/-- The 4-bit code of a card type (R33). -/
def CardType.code : CardType → BitVec 4
  | .unknown => 0
  | .notComplete => 1
  | .mifareMini => 2
  | .mifare1K => 3
  | .mifare4K => 4
  | .mifareUltralight => 5
  | .mifarePlus => 6
  | .tnp3xxx => 7
  | .iso14443_4 => 8
  | .iso18092 => 9

/-- One event of the trace (R15). -/
inductive Event where
  /-- `RD(a, v)`: a bus read of address `a` that returned `v`. -/
  | rd (a : RegAddr) (v : Byte)
  /-- `WR(a, v)`: a bus write. -/
  | wr (a : RegAddr) (v : Byte)
  /-- `DELAY(ms)`: a delay request. -/
  | delay (ms : Nat)
deriving DecidableEq, Repr

/-! ### The sequencer (R27). -/

/-- The position inside a `SetBits` or `ClearBits` sequence (R144, R145). -/
inductive RmwPos where
  | read
  | write
deriving DecidableEq, Repr

/-- The operations that call `Crc` (R28). -/
inductive CrcUser where
  | calccrc
  | select
  | halt
deriving DecidableEq, Repr

/-- The operations that call `Exec` (R28). -/
inductive ExecUser where
  | tocard
  | ispresent
  | readuid
  | select
  | halt
deriving DecidableEq, Repr

/-- The position inside a `Crc` sequence (R161): its step, and the place in it. The loop index is the register `I`. -/
inductive CrcPos where
  /-- Step 1. -/
  | clear (r : RmwPos)
  /-- Step 2. -/
  | flush (r : RmwPos)
  /-- Step 3: `I <- 0`. -/
  | fifoStart
  /-- Step 3: one FIFO write, or the end of the loop. -/
  | fifo
  /-- Step 4. -/
  | command
  /-- Step 5: `CNT <- 255`. -/
  | pollStart
  /-- Step 5: the read. -/
  | pollRead
  /-- Step 5: decrement and test. -/
  | pollTest
  /-- Step 6: the first result byte. -/
  | resultLo
  /-- Step 6: the second result byte. -/
  | resultMid
deriving DecidableEq, Repr

/-- The position inside an `Exec` sequence (R181): its step, and the place in it. -/
inductive ExecPos where
  /-- Step 1. -/
  | setup
  /-- Step 2. -/
  | enable
  /-- Step 3: `ClearBits`. -/
  | clear (r : RmwPos)
  /-- Step 3: `SetBits`. -/
  | flush (r : RmwPos)
  /-- Step 4: Idle. -/
  | idle
  /-- Step 4: `I <- 0`. -/
  | fifoStart
  /-- Step 4: one FIFO write, or the end of the loop. -/
  | fifo
  /-- Step 4: the command. -/
  | command
  /-- Step 5. -/
  | send (r : RmwPos)
  /-- Step 6: `CNT <- 2000`. -/
  | pollStart
  /-- Step 6: the read. -/
  | pollRead
  /-- Step 6: decrement and test. -/
  | pollTest
  /-- Step 6: the delay. -/
  | pollDelay
  /-- Step 7. -/
  | stop (r : RmwPos)
  /-- Step 8: the error register. -/
  | errorRead
  /-- Step 8: the outcome. -/
  | judge
  /-- Step 8: the FIFO level. -/
  | level
  /-- Step 8: the control register. -/
  | control
  /-- Step 8: `XBITS`, `XLEN` and `I <- 0`. -/
  | count
  /-- Step 8: one drain read, or the end of the loop. -/
  | drain
deriving DecidableEq, Repr

/-- `SEQ`, the program counter of the block: `Idle`, or an operation with its step and sub-step (R27). Only positions that the
step lists have are terms. Consecutive register-only steps of an operation are one position. -/
inductive Seq where
  | idle
  /-- READREG, its one step (R140). -/
  | readreg
  /-- WRITEREG, its one step (R141). -/
  | writereg
  /-- SETBITS (R146). -/
  | setbits (r : RmwPos)
  /-- CLRBITS (R147). -/
  | clrbits (r : RmwPos)
  /-- CALCCRC steps 1 and 2 (R160). -/
  | calccrcLoad
  /-- CALCCRC step 4. -/
  | calccrcResults
  /-- TOCARD steps 1 and 2 (R180). -/
  | tocardLoad
  /-- TOCARD step 4. -/
  | tocardResults
  /-- ISPRESENT step 1 (R213). -/
  | ispresentFraming
  /-- ISPRESENT step 2. -/
  | ispresentFrame
  /-- ISPRESENT steps 4 and 5. -/
  | ispresentResults
  /-- WAITPRESENT: `CNT <- T` (R218). -/
  | waitpresentStart
  /-- WAITPRESENT: the test of `CNT`. -/
  | waitpresentTest
  /-- WAITPRESENT: the write of the bit-framing register. -/
  | waitpresentFraming
  /-- WAITPRESENT: the read of the IRQ-status register. -/
  | waitpresentPoll
  /-- WAITPRESENT: the match. -/
  | waitpresentMatch
  /-- WAITPRESENT: the `ClearBits` of a match. -/
  | waitpresentClear (r : RmwPos)
  /-- WAITPRESENT: `FLAG <- 1`. -/
  | waitpresentFound
  /-- WAITPRESENT: `Delay(5)`. -/
  | waitpresentDelay
  /-- WAITPRESENT: `CNT <- CNT - 1`. -/
  | waitpresentCount
  /-- WAITREMOVED: the write of the bit-framing register (R224). -/
  | waitremovedFraming
  /-- WAITREMOVED: `CNT <- T`. -/
  | waitremovedStart
  /-- WAITREMOVED: the test of `CNT`. -/
  | waitremovedTest
  /-- WAITREMOVED: the read of the IRQ-status register. -/
  | waitremovedPoll
  /-- WAITREMOVED: the match. -/
  | waitremovedMatch
  /-- WAITREMOVED: `Delay(1)`. -/
  | waitremovedDelay
  /-- WAITREMOVED: `CNT <- CNT - 1`. -/
  | waitremovedCount
  /-- READUID step 1 (R241). -/
  | readuidFraming
  /-- READUID step 2. -/
  | readuidFrame
  /-- READUID steps 4 and 5. -/
  | readuidResults
  /-- SELECT step 1 (R246). -/
  | selectFrame
  /-- SELECT step 3. -/
  | selectAppend
  /-- SELECT steps 5 and 6. -/
  | selectResults
  /-- CLASSIFY, all its steps (R260). -/
  | classify
  /-- HALT step 1 (R271). -/
  | haltFrame
  /-- HALT step 2 after `Crc`. -/
  | haltAppend
  /-- HALT step 4. -/
  | haltResults
  /-- INIT step 1 (R276). -/
  | initReset
  /-- INIT step 2: item `k` of `INIT_SEQUENCE`, and the place in it. -/
  | initItem (k : Nat) (r : RmwPos)
  /-- INIT step 3. -/
  | initVersion
  /-- INIT step 4. -/
  | initResults
  /-- `OP` = 0xE, its one step (R118). -/
  | reservedE
  /-- `OP` = 0xF, its one step (R118). -/
  | reservedF
  /-- Inside `Crc`, called by `u`. -/
  | inCrc (u : CrcUser) (c : CrcPos)
  /-- Inside `Exec`, called by `u`. -/
  | inExec (u : ExecUser) (x : ExecPos)
deriving DecidableEq, Repr

/-! ### The groups of registers. -/

/-- The operand registers: the host writes, the engine reads (R21). -/
structure Operands where
  /-- `OP`: operation code. -/
  op : BitVec 4
  /-- `A`: PCD register address. -/
  a : Byte
  /-- `D`: data byte. -/
  d : Byte
  /-- `T`: tick count. -/
  t : BitVec 16
  /-- `BUF[0..63]`. -/
  buf : Vector Byte 64
  /-- `LEN`: number of valid bytes of `BUF`. -/
  len : BitVec 7
deriving DecidableEq, Repr

/-- The result registers: the engine writes, the host reads (R23). -/
structure Results where
  /-- `STATUS`. -/
  status : Status
  /-- `VAL`. -/
  val : Byte
  /-- `FLAG`. -/
  flag : Bool
  /-- `BITS`. -/
  bits : BitVec 16
  /-- `RLEN`. -/
  rlen : BitVec 5
  /-- `RBUF[0..15]`. -/
  rbuf : Vector Byte 16
  /-- `CRC0`. -/
  crc0 : Byte
  /-- `CRC1`. -/
  crc1 : Byte
  /-- `CTYPE`. -/
  ctype : CardType
deriving DecidableEq, Repr

/-- The hidden registers (R31). -/
structure Hidden where
  /-- `FRAME[0..63]`. -/
  frame : Vector Byte 64
  /-- `FLEN`. -/
  flen : BitVec 7
  /-- `CMDR`. -/
  cmdr : Byte
  /-- `IRQEN`. -/
  irqen : Byte
  /-- `WAITIRQ`. -/
  waitirq : Byte
  /-- `N`. -/
  n : Byte
  /-- `CNT`. -/
  cnt : BitVec 16
  /-- `E`. -/
  e : Byte
  /-- `L`. -/
  l : Byte
  /-- `LASTBITS`. -/
  lastbits : BitVec 3
  /-- `TMP`. -/
  tmp : Byte
  /-- `I`. -/
  i : BitVec 7
  /-- `XST`. -/
  xst : Status
  /-- `XBITS`. -/
  xbits : BitVec 16
  /-- `XLEN`. -/
  xlen : BitVec 5
  /-- `XBUF[0..15]`. -/
  xbuf : Vector Byte 16
  /-- `C0`. -/
  c0 : Byte
  /-- `C1`. -/
  c1 : Byte
deriving DecidableEq, Repr

/-- The handshake bits and the sequencer (R26, R27). -/
structure Control where
  /-- `START`. -/
  start : Bool
  /-- `BUSY`. -/
  busy : Bool
  /-- `DONE`. -/
  done : Bool
  /-- `SEQ`. -/
  seq : Seq
deriving DecidableEq, Repr

/-- The engine's side of the bus, with what the environment has given and will give. -/
structure Bus where
  /-- Chip-select is asserted. Released between primitives and in `SEQ = Idle` (R61). -/
  cs : Bool
  /-- THE MODEL'S OWN: the byte the last bus read kept, the `v` that `BusRead` returns (R62). -/
  rx : Byte
  /-- THE MODEL'S OWN: the bytes the PCD will return to the next reads, in order. Where it is empty, a read returns the free
  value `Config.oracle` (R66). -/
  answers : List Byte
  /-- THE MODEL'S OWN: how many bus reads have been made, the argument of the free value. -/
  reads : Nat
  /-- THE MODEL'S OWN: the trace since reset, oldest event first (R15). -/
  trace : List Event
deriving DecidableEq, Repr

/-- THE MODEL'S OWN: bytes put directly before what executes their format. -/
structure Request where
  format : Format
  bytes : List Byte
deriving DecidableEq, Repr

/-- The state of the block. -/
structure State where
  /-- Operand registers. -/
  opr : Operands
  /-- Result registers. -/
  res : Results
  /-- Hidden registers. -/
  hid : Hidden
  /-- Handshake and sequencer. -/
  ctl : Control
  /-- Bus. -/
  bus : Bus
  /-- THE MODEL'S OWN: a word to be executed next, so that every row of the opcode table can be run by a step, a host operation whole.
  The engine itself fetches nothing (R78) and no step or host action ever sets it. -/
  request : Option Request
deriving DecidableEq, Repr

/-- Why the machine stops. -/
inductive Fault where
  /-- `fault Overlap` (R302): raised by a meaning of a host operation started while `BUSY = 1`, and by a host write of an operand
  register or of `START` then. Safe: the spec gives the violation no meaning and no claim may rest on what follows. -/
  | overlap
deriving DecidableEq, Repr

/-- Why there is no step. -/
inductive Refusal where
  /-- Raised by an arm of `exec` for an instruction without a meaning. No arm does. Safe. -/
  | notModelled (mnemonic : String)
  /-- Raised by `step` when the request port holds bytes that are no encoding of their format. Safe: the engine produces no such
  bytes (R108, R119). -/
  | undecodable
deriving DecidableEq, Repr

/-- What a step answers. -/
abbrev Out := Host.Outcome State Fault Refusal

/-- The operand registers after reset: all zero (R56). -/
def Operands.reset : Operands where
  op := 0
  a := 0
  d := 0
  t := 0
  buf := Vector.replicate 64 0
  len := 0

/-- The result registers after reset (R56). -/
def Results.reset : Results where
  status := .error
  val := 0
  flag := false
  bits := 0
  rlen := 0
  rbuf := Vector.replicate 16 0
  crc0 := 0
  crc1 := 0
  ctype := .unknown

/-- The hidden registers after reset: unspecified by R56, so a value of the model's choice (DESIGN CHOICE, log entry 1). -/
def Hidden.reset : Hidden where
  frame := Vector.replicate 64 0
  flen := 0
  cmdr := 0
  irqen := 0
  waitirq := 0
  n := 0
  cnt := 0
  e := 0
  l := 0
  lastbits := 0
  tmp := 0
  i := 0
  xst := .error
  xbits := 0
  xlen := 0
  xbuf := Vector.replicate 16 0
  c0 := 0
  c1 := 0

/-- The handshake and sequencer after reset (R56). -/
def Control.reset : Control where
  start := false
  busy := false
  done := false
  seq := .idle

/-- The bus after reset: chip-select released (R56), nothing read and nothing traced yet, every answer free (R321). -/
def Bus.reset : Bus where
  cs := false
  rx := 0
  answers := []
  reads := 0
  trace := []

/-- The machine right after reset (R56, R320). -/
def State.reset : State where
  opr := Operands.reset
  res := Results.reset
  hid := Hidden.reset
  ctl := Control.reset
  bus := Bus.reset
  request := none

end Sys2Proof.Machine
end

