-- ==== Sys2Proof/Machine/Operands.lean ====
section
/-! DEFINITION. Operand forms: address bytes and the wire, byte-array registers, the frames the engine builds, and the copies
between register groups. -/

namespace Sys2Proof.Machine

/-! ### The address byte and the wire. -/

/-- The address byte of a register read, by the document's formula (R62, R106). -/
def readAddressByte (a : Byte) : Byte := ((a <<< 1) &&& 0xFE) ||| 0x80

/-- The address byte of a register write (R63, R107). -/
def writeAddressByte (a : Byte) : Byte := (a <<< 1) &&& 0x7E

/-- A register address operand as the bus carries it. -/
def byteOfAddr (a : RegAddr) : Byte := a.setWidth 8

/-- The two bytes the engine shifts out for an event, none for a delay (R62, R63). -/
def wireBytes (p : Config.Params) : Event → List Byte
  | .rd a _ => [readAddressByte (byteOfAddr a), p.dummyByte]
  | .wr a v => [writeAddressByte (byteOfAddr a), v]
  | .delay _ => []

/-- The eight bits of a byte in the order they go over the wire, bit 7 first (R65). -/
def bitsMsbFirst (b : Byte) : List Bool := (List.range 8).map fun k => b.getLsbD (7 - k)

/-- What happens on the wire. -/
inductive WireAction where
  /-- The chip-select line is driven to a level. -/
  | chipSelect (level : Bool)
  /-- One clock pulse: the bit the engine shifts out and, at the same time, the bit it shifts in (R60). -/
  | clock (mosi miso : Bool)
deriving DecidableEq, Repr

/-- One clock pulse of an exchange: bit 7 of the byte goes out, the others move up and the bit shifted in enters as bit 0, so that
the most significant bit is first in both directions (R60, R65). -/
def shiftBit (r : Byte) (miso : Bool) : Byte := (r <<< 1) ||| (BitVec.ofBool miso).setWidth 8

/-- The byte that stands in the place of `sent` once the bits have been shifted in: after eight bits, the byte received (R60). -/
def exchangeByte (sent : Byte) (bits : List Bool) : Byte := bits.foldl shiftBit sent

/-- The clock pulses of an exchange: each bit shifted in beside the bit that goes out (R60). -/
def exchangePulses (sent : Byte) : List Bool → List WireAction
  | [] => []
  | b :: bits => .clock sent.msb b :: exchangePulses (shiftBit sent b) bits

/-- The bytes shifted in during the two exchanges of an event: a read keeps its second, the others (`x`, `y`) are any bytes and
are discarded unexamined (R62, R63, D8). -/
def wireReceived (x y : Byte) : Event → List Byte
  | .rd _ v => [x, v]
  | .wr _ _ => [x, y]
  | .delay _ => []

/-- The wire actions of an event: one chip-select window around two exchanges of eight pulses (R61, R65), nothing for a delay. -/
def wireActions (p : Config.Params) (x y : Byte) (ev : Event) : List WireAction :=
  match ev with
  | .delay _ => []
  | _ =>
    [.chipSelect p.csActiveLevel] ++
      (List.zipWith (fun b r => exchangePulses b (bitsMsbFirst r)) (wireBytes p ev) (wireReceived x y ev)).flatten ++
      [.chipSelect (!p.csActiveLevel)]

/-! ### Bytes and byte arrays. -/

/-- Whether any bit of the mask is set in the byte. -/
def anyBit (b m : Byte) : Bool := (b &&& m) != 0

/-- Element `i` of a byte-array register. -/
def byteAt {n : Nat} (v : Vector Byte n) (i : Nat) : Byte := v[i]?.getD 0

/-- A byte-array register with its leading elements replaced by the listed bytes and the others kept. -/
def storeBytes {n : Nat} (v : Vector Byte n) (bytes : List Byte) : Vector Byte n :=
  Vector.ofFn fun k => bytes.getD k.val (byteAt v k.val)

/-- The first `k` elements of a byte-array register, in index order. -/
def firstBytes {n : Nat} (v : Vector Byte n) (k : Nat) : List Byte := v.toList.take k

/-! ### Frames. -/

/-- `FRAME[i] <- bytes[i]` and `FLEN <- k`. -/
def setFrame (bytes : List Byte) (k : BitVec 7) (s : State) : State :=
  { s with hid := { s.hid with frame := storeBytes s.hid.frame bytes, flen := k } }

/-- `FRAME[i] <- BUF[i]` for `i` below `LEN`, `FLEN <- LEN` (R160 step 2, R180 step 2). -/
def loadFrame (s : State) : State := setFrame (firstBytes s.opr.buf s.opr.len.toNat) s.opr.len s

/-- The request frame (R112). -/
def frameRequest (m : Byte) (s : State) : State := setFrame [m] 1 s

/-- The anti-collision frame (R113). -/
def frameAnticollision (s : State) : State := setFrame [piccAnticoll, nvbAnticoll] 2 s

/-- The first seven bytes of the select frame (R246 step 1); `FLEN` is not written. -/
def frameSelectHead (uid : List Byte) (s : State) : State :=
  { s with hid := { s.hid with frame := storeBytes s.hid.frame ([piccSelectByte, nvbSelect] ++ uid) } }

/-- `FRAME[0..1]` of the halt frame (R271 step 1); `FLEN` is not written. -/
def frameHaltHead (s : State) : State :=
  { s with hid := { s.hid with frame := storeBytes s.hid.frame [piccHaltByte, haltSecondByte] } }

/-- `FRAME[k] <- c0`, `FRAME[k+1] <- c1`, `FLEN <- k + 2` (R246 step 3, R271 step 2). -/
def appendCrc (k : Nat) (c0 c1 : Byte) (s : State) : State :=
  { s with hid := { s.hid with
      frame := (s.hid.frame.setIfInBounds k c0).setIfInBounds (k + 1) c1, flen := BitVec.ofNat 7 (k + 2) } }

/-- `BUF[0..4]`: the operand of SELECT, whatever `LEN` holds (R103, R246). -/
def uidOperand (o : Operands) : List Byte := firstBytes o.buf 5

/-! ### Results. -/

/-- `BITS <- XBITS`, `RLEN <- XLEN`, `RBUF[i] <- XBUF[i]` for all 16 `i`, with the given `STATUS` (R180, R213, R241). -/
def deliver (st : Status) (s : State) : State :=
  { s with res := { s.res with status := st, bits := s.hid.xbits, rlen := s.hid.xlen, rbuf := s.hid.xbuf } }

/-- `CRC0 <- C0`, `CRC1 <- C1` (R170). -/
def deliverCrc (s : State) : State :=
  { s with res := { s.res with crc0 := s.hid.c0, crc1 := s.hid.c1 } }

/-- `VAL <- v`. -/
def setVal (v : Byte) (s : State) : State := { s with res := { s.res with val := v } }

/-- `STATUS <- st`. -/
def setStatus (st : Status) (s : State) : State := { s with res := { s.res with status := st } }

/-- `FLAG <- b`. -/
def setFlag (b : Bool) (s : State) : State := { s with res := { s.res with flag := b } }

/-- `CTYPE <- t`. -/
def setCtype (t : CardType) (s : State) : State := { s with res := { s.res with ctype := t } }

end Sys2Proof.Machine
end

