-- ==== Sys2Proof/Machine/Flags.lean ====
section
/-! DEFINITION. Every decision the block takes on values: the masks of a command kind, the exits of the polls, the outcome of
`Exec`, the bit and drain counts, the gates of the operations and the classifier. -/

namespace Sys2Proof.Machine

/-- `IRQEN` and `WAITIRQ` by command kind: equality of the whole byte (R183). -/
def commandMasks (cmd : Byte) : Byte × Byte :=
  if cmd = cmdAuthentByte then (irqenAuthent, waitAuthent)
  else if cmd = cmdTransceiveByte then (irqenTransceive, waitTransceive)
  else (irqenOther, waitOther)

/-- The exit of the CRC poll: the counter at zero, or the done flag (R161 step 5). -/
def crcPollDone (p : Config.Params) (h : Hidden) : Bool := h.cnt == 0 || anyBit h.n p.crcDone

/-- The exit of the executor poll: the counter at zero, the timer bit, or a bit of the done group (R188). -/
def execPollDone (p : Config.Params) (h : Hidden) : Bool :=
  h.cnt == 0 || anyBit h.n p.timerIrq || anyBit h.n h.waitirq

/-- The status of an exchange whose poll ended on an event: the rows of R193 below the first. -/
def execOutcome (p : Config.Params) (e n irqen : Byte) : Status :=
  if anyBit e errMask then .error else if anyBit (n &&& irqen) p.timerIrq then .noTag else .ok

/-- `XBITS` from the FIFO level and the last-bits field (R190). -/
def bitCount (l : Byte) (lastbits : BitVec 3) : BitVec 16 :=
  if lastbits = 0 then l.setWidth 16 * 8 else (l.setWidth 16 - 1) * 8 + lastbits.setWidth 16

/-- `XLEN` from the FIFO level (R191). -/
def drainCount (l : Byte) : BitVec 5 :=
  if l = 0 then 1 else if l.toNat ≤ drainCap then l.setWidth 5 else BitVec.ofNat 5 drainCap

/-- The presence gate (R214, R215). -/
def presenceGate (xst : Status) (xbits : BitVec 16) : Status := if xst = .ok ∧ xbits = atqaBits then .ok else .error

/-- The XOR checksum of a UID holds (R242). -/
def uidChecksumOk (x : Vector Byte 16) : Bool :=
  (byteAt x 0 ^^^ byteAt x 1 ^^^ byteAt x 2 ^^^ byteAt x 3) == byteAt x 4

/-- The status of READUID (R241 step 4, R243). -/
def uidStatus (xst : Status) (x : Vector Byte 16) : Status := if xst = .ok ∧ uidChecksumOk x = false then .error else xst

/-- The select gate (R246 step 5, R247). -/
def selectGate (xst : Status) (xbits : BitVec 16) (x : Vector Byte 16) : Byte :=
  if xst = .ok ∧ xbits = sakBits then byteAt x 0 else 0x00

/-- The status of INIT (R276 step 4). -/
def initStatus (p : Config.Params) (v : Byte) : Status := if p.versionOk v then .ok else .error

/-! ### The classifier. -/

/-- The cascade step (R261). -/
def classifyCascade (sak : Byte) (t : CardType) : CardType := if anyBit sak sakCascade then .notComplete else t

/-- The direct-value table, matched on the whole byte (R262). -/
def classifyTable (sak : Byte) (t : CardType) : CardType :=
  if sak = 0x09 then .mifareMini
  else if sak = 0x08 then .mifare1K
  else if sak = 0x18 then .mifare4K
  else if sak = 0x00 then .mifareUltralight
  else if sak = 0x10 ∨ sak = 0x11 then .mifarePlus
  else if sak = 0x01 then .tnp3xxx
  else t

/-- The two overrides, the later one winning (R263). -/
def classifyOverride (sak : Byte) (t : CardType) : CardType :=
  let t' := if anyBit sak sakIso14443 then .iso14443_4 else t
  if anyBit sak sakIso18092 then .iso18092 else t'

/-- The classifier: the steps of R260 in their order. -/
def classifySak (sak : Byte) : CardType :=
  classifyOverride sak (classifyTable sak (classifyCascade sak .unknown))

end Sys2Proof.Machine
end

