-- ==== Sys2Proof/Machine/Ops.lean ====
section
/-! DEFINITION. The named operations over the state: the bus primitives and the delay request, the read-modify-write sequences,
the register updates of the loops, the start and the end of an operation, and the refusal. Taking an exception has no operation
here: the block raises none (R290, R304); an operation that fails ends as any other. -/

namespace Sys2Proof.Machine

/-! ### The bus primitives (R60 to R67). -/

/-- The byte the environment answers the next read with (R66). -/
def nextAnswer (b : Bus) : Byte :=
  match b.answers with
  | v :: _ => v
  | [] => Config.oracle b.reads

/-- Chip-select is asserted or released (R61). -/
def driveCs (on : Bool) (s : State) : State := { s with bus := { s.bus with cs := on } }

/-- The exchange whose received byte is kept (R62 step 3): the environment's next answer is shifted in, bit 7 first, while the
dummy byte is shifted out (R60, R65). -/
def exchangeKept (p : Config.Params) (s : State) : State :=
  { s with bus := { s.bus with
      rx := exchangeByte p.dummyByte (bitsMsbFirst (nextAnswer s.bus)), answers := s.bus.answers.tail, reads := s.bus.reads + 1 } }

/-- One more event of the trace (R15). -/
def record (ev : Event) (s : State) : State := { s with bus := { s.bus with trace := s.bus.trace ++ [ev] } }

/-- `BusRead(a)` (R62): the byte returned is in `rx`, the address of the event is the one the address byte carries (R108). The
byte received during the address byte is discarded unexamined (D8). -/
def busRead (p : Config.Params) (a : Byte) (s : State) : State :=
  let s := exchangeKept p (driveCs true s)
  driveCs false (record (.rd (addressField (readAddressByte a)) s.bus.rx) s)

/-- `BusWrite(a, v)` (R63); both received bytes are discarded (D8). -/
def busWrite (a v : Byte) (s : State) : State :=
  driveCs false (record (.wr (addressField (writeAddressByte a)) v) (driveCs true s))

/-- `Delay(ms)` (R67): the request is traced and the delay primitive returns. -/
def delay (ms : Nat) (s : State) : State := record (.delay ms) s

/-! ### Reads into a register. -/

/-- `VAL <- BusRead(a)`. -/
def readVal (p : Config.Params) (a : Byte) (s : State) : State :=
  let s := busRead p a s
  setVal s.bus.rx s

/-- `TMP <- BusRead(a)`: the first half of a read-modify-write (R144, R145). -/
def readTmp (p : Config.Params) (a : Byte) (s : State) : State :=
  let s := busRead p a s
  { s with hid := { s.hid with tmp := s.bus.rx } }

/-- `N <- BusRead(a)`. -/
def readN (p : Config.Params) (a : Byte) (s : State) : State :=
  let s := busRead p a s
  { s with hid := { s.hid with n := s.bus.rx } }

/-- `E <- BusRead(0x06)`. -/
def readE (p : Config.Params) (s : State) : State :=
  let s := busRead p regError s
  { s with hid := { s.hid with e := s.bus.rx } }

/-- `L <- BusRead(0x0A)`. -/
def readL (p : Config.Params) (s : State) : State :=
  let s := busRead p regFifolevel s
  { s with hid := { s.hid with l := s.bus.rx } }

/-- `LASTBITS <- BusRead(0x0C) & LASTBITS_MASK`. -/
def readLastbits (p : Config.Params) (s : State) : State :=
  let s := busRead p regControl s
  { s with hid := { s.hid with lastbits := (s.bus.rx &&& p.lastbitsMask).setWidth 3 } }

/-- `C0 <- BusRead(REG_CRC_LO)` (R164). -/
def readC0 (p : Config.Params) (s : State) : State :=
  let s := busRead p p.regCrcLo s
  { s with hid := { s.hid with c0 := s.bus.rx } }

/-- `C1 <- BusRead(REG_CRC_MID)` (R164). -/
def readC1 (p : Config.Params) (s : State) : State :=
  let s := busRead p p.regCrcMid s
  { s with hid := { s.hid with c1 := s.bus.rx } }

/-! ### The read-modify-write sequences. -/

/-- The second half of `SetBits(a, m)` (R144 step 2). -/
def writeSet (a m : Byte) (s : State) : State := busWrite a (s.hid.tmp ||| m) s

/-- The second half of `ClearBits(a, m)` (R145 step 2). -/
def writeClear (a m : Byte) (s : State) : State := busWrite a (s.hid.tmp &&& ~~~m) s

/-- `SetBits(a, m)` (R144). -/
def setBits (p : Config.Params) (a m : Byte) (s : State) : State := writeSet a m (readTmp p a s)

/-- `ClearBits(a, m)` (R145). -/
def clearBits (p : Config.Params) (a m : Byte) (s : State) : State := writeClear a m (readTmp p a s)

/-! ### Loop registers. -/

/-- `CNT <- k`. -/
def setCnt (k : BitVec 16) (s : State) : State := { s with hid := { s.hid with cnt := k } }

/-- `CNT <- CNT - 1`. -/
def countDown (s : State) : State := setCnt (s.hid.cnt - 1) s

/-- `I <- k`. -/
def setI (k : BitVec 7) (s : State) : State := { s with hid := { s.hid with i := k } }

/-- One turn of a FIFO-write loop: `BusWrite(0x09, FRAME[I])`, then the next index. -/
def fifoPush (s : State) : State :=
  let s := busWrite regFifodata (byteAt s.hid.frame s.hid.i.toNat) s
  setI (s.hid.i + 1) s

/-- A FIFO-write loop of `k` turns from the present index. -/
def fifoPushes : Nat → State → State
  | 0, s => s
  | k + 1, s => fifoPushes k (fifoPush s)

/-- `for I from 0 to k-1 in order, BusWrite(0x09, FRAME[I])` (R161 step 3, R181 step 4). What `I` holds after the loop the spec
does not say: here `k`, so 0 for an empty loop (DESIGN CHOICE, log entry 20). -/
def fifoWrite (k : Nat) (s : State) : State := fifoPushes k (setI 0 s)

/-- Writing a command code starts that command in the PCD (R39). -/
def issueCommand (c : Byte) (s : State) : State := busWrite regCommand c s

/-! ### The start, the end and the refusal of a host operation (R26, R28). -/

/-- `START` is taken: `SEQ` at the operation's first step, `BUSY <- 1`, `DONE <- 0`, `START <- 0`. The operands are not copied: no
host write can change them before the operation ends (R22, R302). -/
def takeStart (q : Seq) (s : State) : State :=
  { s with ctl := { start := false, busy := true, done := false, seq := q } }

/-- The end of the last step: `SEQ <- Idle`, `BUSY <- 0`, `DONE <- 1`. -/
def finish (s : State) : State := { s with ctl := { s.ctl with busy := false, done := true, seq := .idle } }

/-- `refuse` (R118, R303): `STATUS <- Error` and nothing else. -/
def refuse (s : State) : State := setStatus .error s

/-- A host operation from its `START` to its end: `fault Overlap` while another runs (R302), else the start, the step list and the
end. -/
def hostOperation (q : Seq) (body : State → State) (s : State) : Out :=
  if s.ctl.busy then .fault .overlap else .next (finish (body (takeStart q s)))

end Sys2Proof.Machine
end

