-- ==== Sys2Proof/Machine/CrcEngine.lean ====
section
/-! DEFINITION. The CRC_A coprocessor sub-block (41_crc_engine.md): the sequence `Crc(k)` and the operation CALCCRC. -/

namespace Sys2Proof.Machine

/-- One turn of the CRC poll before its test: `N <- BusRead(REG_CRCIRQ)`, `CNT <- CNT - 1` (R161 step 5). -/
def crcPollTurn (p : Config.Params) (s : State) : State := countDown (readN p p.regCrcirq s)

/-- The CRC poll (R162), with the number of turns it may still make. -/
def crcPoll (p : Config.Params) : Nat → State → State
  | 0, s => s
  | f + 1, s =>
    let t := crcPollTurn p s
    if crcPollDone p t.hid then t else crcPoll p f t

/-- `Crc(k)` over `FRAME[0..k-1]`: the six steps of R161. -/
def crc (p : Config.Params) (k : Nat) (s : State) : State :=
  s |> clearBits p p.regCrcirq p.crcDone
    |> setBits p regFifolevel p.fifoFlush
    |> fifoWrite k
    |> issueCommand cmdCalccrcByte
    |> setCnt (BitVec.ofNat 16 crcPollMax)
    |> crcPoll p crcPollMax
    |> readC0 p
    |> readC1 p

/-- CALCCRC (R160). -/
def bodyCalccrc (p : Config.Params) (s : State) : State :=
  if fifoCapacity < s.opr.len.toNat then refuse s
  else s |> loadFrame |> crc p s.opr.len.toNat |> deliverCrc

/-- The operation CALCCRC. -/
def execCalccrc (s : State) : Out := hostOperation .calccrcLoad (bodyCalccrc params) s

end Sys2Proof.Machine
end

