-- ==== Sys2Proof/Machine/Executor.lean ====
section
/-! DEFINITION. The command executor with timeout (42_command_executor.md): the sequence `Exec(cmd)`, the operation TOCARD, and
the PCD commands as the bytes written to `COMMAND` (30_encoding.md, R109, R110). -/

namespace Sys2Proof.Machine

/-- Step 1: the masks by command kind and the defaults of the outcome (R181, R182). -/
def execSetup (cmd : Byte) (s : State) : State :=
  { s with hid := { s.hid with
      cmdr := cmd, irqen := (commandMasks cmd).1, waitirq := (commandMasks cmd).2,
      xst := .error, xbits := 0, xlen := 0, xbuf := Vector.replicate 16 0 } }

/-- Step 2: `BusWrite(REG_IRQEN, IRQEN | IRQ_GLOBAL_EN)`. -/
def execEnable (p : Config.Params) (s : State) : State := busWrite p.regIrqen (s.hid.irqen ||| p.irqGlobalEn) s

/-- Step 3, first half, and the flag clear of WAITPRESENT: `ClearBits(REG_IRQST, IRQ_CLEAR_MASK)`. -/
def clearIrq (p : Config.Params) (s : State) : State := clearBits p p.regIrqst p.irqClearMask s

/-- The FIFO-write loop of step 4, over `FRAME[0..FLEN-1]`. -/
def execFifo (s : State) : State := fifoWrite s.hid.flen.toNat s

/-- The command of step 4. -/
def execCommand (s : State) : State := issueCommand s.hid.cmdr s

/-- Step 5: start-send, for Transceive only (R187). -/
def execSend (p : Config.Params) (s : State) : State :=
  if s.hid.cmdr = cmdTransceiveByte then setBits p regBitframing p.startSend s else s

/-- One turn of the executor poll before its test: `N <- BusRead(REG_IRQST)`, `CNT <- CNT - 1` (R188). -/
def execPollTurn (p : Config.Params) (s : State) : State := countDown (readN p p.regIrqst s)

/-- The poll of step 6 (R188), with the number of turns it may still make: read, decrement, test, and a delay of 10 ms after each
turn that does not end it. -/
def execPoll (p : Config.Params) : Nat → State → State
  | 0, s => s
  | f + 1, s =>
    let t := execPollTurn p s
    if execPollDone p t.hid then t else execPoll p f (delay execPollDelayMs t)

/-- Step 7, for every command (R194). -/
def execStop (p : Config.Params) (s : State) : State := clearBits p regBitframing p.startSend s

/-- The outcome of step 8 (R193). -/
def execJudge (p : Config.Params) (s : State) : State :=
  { s with hid := { s.hid with xst := execOutcome p s.hid.e s.hid.n s.hid.irqen } }

/-- `XBITS` and `XLEN` of step 8 (R190, R191), and `I <- 0` for the drain. -/
def execCount (s : State) : State :=
  { s with hid := { s.hid with xbits := bitCount s.hid.l s.hid.lastbits, xlen := drainCount s.hid.l, i := 0 } }

/-- One turn of the drain loop: `XBUF[I] <- BusRead(0x09)`, then the next index. -/
def drainOne (p : Config.Params) (s : State) : State :=
  let s := busRead p regFifodata s
  { s with hid := { s.hid with xbuf := s.hid.xbuf.setIfInBounds s.hid.i.toNat s.bus.rx, i := s.hid.i + 1 } }

/-- A drain loop of `k` turns from the present index. -/
def drains (p : Config.Params) : Nat → State → State
  | 0, s => s
  | k + 1, s => drains p k (drainOne p s)

/-- The drain of step 8: `XLEN` reads of 0x09 (R191). `I` is left at `XLEN`, which the spec does not say (DESIGN CHOICE, log entry
20). -/
def execDrain (p : Config.Params) (s : State) : State := drains p s.hid.xlen.toNat s

/-- The Transceive part of step 8: level, control, counts, drain, in this order (R200). -/
def execReceive (p : Config.Params) (s : State) : State :=
  s |> readL p |> readLastbits p |> execCount |> execDrain p

/-- Step 8: the error register, the outcome, and for a Transceive without a masked error bit the reception. -/
def execResult (p : Config.Params) (s : State) : State :=
  let s := execJudge p (readE p s)
  if anyBit s.hid.e errMask then s
  else if s.hid.cmdr = cmdTransceiveByte then execReceive p s
  else s

/-- Steps 8 and 9: nothing more on the timeout path (R195). -/
def execConclude (p : Config.Params) (s : State) : State := if s.hid.cnt = 0 then s else execResult p s

/-- `Exec(cmd)` over `FRAME[0..FLEN-1]`: the nine steps of R181. -/
def executor (p : Config.Params) (cmd : Byte) (s : State) : State :=
  s |> execSetup cmd
    |> execEnable p
    |> clearIrq p
    |> setBits p regFifolevel p.fifoFlush
    |> issueCommand cmdIdleByte
    |> execFifo
    |> execCommand
    |> execSend p
    |> setCnt (BitVec.ofNat 16 execPollMax)
    |> execPoll p execPollMax
    |> execStop p
    |> execConclude p

/-- `Exec(Transceive)`: how every frame the engine builds itself is sent. -/
def transceive (p : Config.Params) (s : State) : State := executor p cmdTransceiveByte s

/-- TOCARD (R180): the status of the executor is delivered unchanged (R314). -/
def bodyTocard (p : Config.Params) (s : State) : State :=
  if fifoCapacity < s.opr.len.toNat then refuse s
  else
    let t := executor p s.opr.d (loadFrame s)
    deliver t.hid.xst t

/-- The operation TOCARD. -/
def execTocard (s : State) : Out := hostOperation .tocardLoad (bodyTocard params) s

/-- CMD_IDLE (R109): the byte 0x00 written to `COMMAND`. -/
def execCmdIdle (s : State) : Out := .next (issueCommand cmdIdleByte s)

/-- CMD_CALCCRC (R109): the byte 0x03 written to `COMMAND`. -/
def execCmdCalccrc (s : State) : Out := .next (issueCommand cmdCalccrcByte s)

/-- CMD_TRANSCEIVE (R109): the byte 0x0C written to `COMMAND`. -/
def execCmdTransceive (s : State) : Out := .next (issueCommand cmdTransceiveByte s)

/-- CMD_AUTHENT (R109): the byte 0x0E written to `COMMAND`. -/
def execCmdAuthent (s : State) : Out := .next (issueCommand cmdAuthentByte s)

/-- CMD_SOFTRESET (R109): the byte 0x0F written to `COMMAND`. -/
def execCmdSoftreset (s : State) : Out := .next (issueCommand cmdSoftresetByte s)

/-- CMD_OTHER (R110): the byte written to `COMMAND` unchanged. -/
def execCmdOther (c : Byte) (s : State) : Out := .next (issueCommand c s)

end Sys2Proof.Machine
end

