-- ==== Sys2Proof/Machine/Anticollision.lean ====
section
/-! DEFINITION. The anti-collision and select state machine (44_anticollision_select.md): READUID, SELECT; and the two frames sent
to the card, PICC_ANTICOLLISION and PICC_SELECT (R113, R114). -/

namespace Sys2Proof.Machine

/-- The anti-collision frame sent in full-byte mode: steps 1 to 3 of R241. -/
def sendAnticollision (p : Config.Params) (s : State) : State :=
  s |> busWrite regBitframing p.bitframingFull |> frameAnticollision |> transceive p

/-- READUID (R241). -/
def bodyReaduid (p : Config.Params) (s : State) : State :=
  let t := sendAnticollision p s
  deliver (uidStatus t.hid.xst t.hid.xbuf) t

/-- Steps 3 and 4 of R246: the two CRC bytes appended to the seven bytes of the select frame, and the frame sent. -/
def sendSelect (p : Config.Params) (c0 c1 : Byte) (s : State) : State := transceive p (appendCrc 7 c0 c1 s)

/-- SELECT (R246). -/
def bodySelect (p : Config.Params) (s : State) : State :=
  let c := crc p 7 (frameSelectHead (uidOperand s.opr) s)
  let t := sendSelect p c.hid.c0 c.hid.c1 c
  deliverCrc (setVal (selectGate t.hid.xst t.hid.xbits t.hid.xbuf) t)

/-- The operation READUID. -/
def execReaduid (s : State) : Out := hostOperation .readuidFraming (bodyReaduid params) s

/-- The operation SELECT. -/
def execSelect (s : State) : Out := hostOperation .selectFrame (bodySelect params) s

/-- PICC_ANTICOLLISION (R113): the frame is built, sent in full-byte mode, and its answer left in the executor's registers. -/
def execPiccAnticollision (s : State) : Out := .next (sendAnticollision params s)

/-- PICC_SELECT (R114): the frame with the CRC bytes it carries is built and sent, and its answer left in the executor's
registers. The bit-framing register is not written (R250). -/
def execPiccSelect (u0 u1 u2 u3 u4 c0 c1 : Byte) (s : State) : Out :=
  .next (sendSelect params c0 c1 (frameSelectHead [u0, u1, u2, u3, u4] s))

end Sys2Proof.Machine
end

