-- ==== Sys2Proof/Machine/CardPresence.lean ====
section
/-! DEFINITION. The card presence detector (43_card_presence.md): ISPRESENT, WAITPRESENT, WAITREMOVED; and the request frame sent
to the card, PICC_REQUEST (R112). -/

namespace Sys2Proof.Machine

/-- The request frame sent as a 7-bit short frame: steps 1 to 3 of R213. -/
def sendRequest (p : Config.Params) (m : Byte) (s : State) : State :=
  s |> busWrite regBitframing p.bitframingShort |> frameRequest m |> transceive p

/-- ISPRESENT (R213). -/
def bodyIspresent (p : Config.Params) (s : State) : State :=
  let t := sendRequest p s.opr.d s
  deliver (presenceGate t.hid.xst t.hid.xbits) t

/-- The loop of WAITPRESENT (R218, R220). The counter ends it before the number of turns does, when that exceeds the counter. -/
def waitPresentLoop (p : Config.Params) : Nat → State → State
  | 0, s => s
  | f + 1, s =>
    if s.hid.cnt = 0 then setFlag false s
    else
      let t := readN p p.regIrqst (busWrite regBitframing p.presentBitframing s)
      if p.presentMatch t.hid.n then setFlag true (clearIrq p t)
      else waitPresentLoop p f (countDown (delay presentDelayMs t))

/-- WAITPRESENT (R218). -/
def bodyWaitpresent (p : Config.Params) (s : State) : State :=
  waitPresentLoop p (s.opr.t.toNat + 1) (setCnt s.opr.t s)

/-- The loop of WAITREMOVED (R224, R226). -/
def waitRemovedLoop (p : Config.Params) : Nat → State → State
  | 0, s => s
  | f + 1, s =>
    if s.hid.cnt = 0 then setFlag false s
    else
      let t := readN p p.regIrqst s
      if p.removedMatch t.hid.n then setFlag true t
      else waitRemovedLoop p f (countDown (delay removedDelayMs t))

/-- WAITREMOVED (R224). -/
def bodyWaitremoved (p : Config.Params) (s : State) : State :=
  waitRemovedLoop p (s.opr.t.toNat + 1) (setCnt s.opr.t (busWrite regBitframing p.bitframingFull s))

/-- The operation ISPRESENT. -/
def execIspresent (s : State) : Out := hostOperation .ispresentFraming (bodyIspresent params) s

/-- The operation WAITPRESENT. -/
def execWaitpresent (s : State) : Out := hostOperation .waitpresentStart (bodyWaitpresent params) s

/-- The operation WAITREMOVED. -/
def execWaitremoved (s : State) : Out := hostOperation .waitremovedFraming (bodyWaitremoved params) s

/-- PICC_REQUEST (R112): the frame is built, sent as a short frame, and its answer left in the executor's registers. -/
def execPiccRequest (m : Byte) (s : State) : Out := .next (sendRequest params m s)

end Sys2Proof.Machine
end

