-- ==== Sys2Proof/Machine/Classifier.lean ====
section
/-! DEFINITION. The card type classifier (45_classifier.md): CLASSIFY. -/

namespace Sys2Proof.Machine

/-- CLASSIFY (R260): no bus activity. -/
def bodyClassify (s : State) : State := setCtype (classifySak s.opr.d) s

/-- The operation CLASSIFY. -/
def execClassify (s : State) : Out := hostOperation .classify bodyClassify s

end Sys2Proof.Machine
end

