-- ==== Sys2Proof/Machine/HaltInit.lean ====
section
/-! DEFINITION. The system operations (46_halt_init.md): HALT, INIT; the halt frame sent to the card, PICC_HALT (R115); and the
two reserved operation codes (R118). -/

namespace Sys2Proof.Machine

/-- The end of step 2 and step 3 of R271: the two CRC bytes appended to the halt frame, and the frame sent. -/
def sendHalt (p : Config.Params) (c0 c1 : Byte) (s : State) : State := transceive p (appendCrc 2 c0 c1 s)

/-- HALT (R271): the executor's outcome is copied nowhere. -/
def bodyHalt (p : Config.Params) (s : State) : State :=
  let c := crc p 2 (frameHaltHead s)
  deliverCrc (sendHalt p c.hid.c0 c.hid.c1 c)

/-- One step of `INIT_SEQUENCE` (R278). -/
def initItem (p : Config.Params) (it : Config.InitStep) (s : State) : State :=
  match it with
  | .w a v => busWrite a v s
  | .s a m => setBits p a m s
  | .c a m => clearBits p a m s
  | .dly ms => delay ms s

/-- The steps of `INIT_SEQUENCE`, in order. -/
def initItems (p : Config.Params) : List Config.InitStep → State → State
  | [], s => s
  | it :: its, s => initItems p its (initItem p it s)

/-- Step 4 of R276: `VAL` and `STATUS` from the version byte just read. -/
def initConclude (p : Config.Params) (s : State) : State := setStatus (initStatus p s.bus.rx) (setVal s.bus.rx s)

/-- INIT (R276). -/
def bodyInit (p : Config.Params) (s : State) : State :=
  s |> issueCommand cmdSoftresetByte
    |> initItems p (p.initSequence s.opr.d)
    |> busRead p regVersion
    |> initConclude p

/-- The operation HALT. -/
def execHalt (s : State) : Out := hostOperation .haltFrame (bodyHalt params) s

/-- The operation INIT. -/
def execInit (s : State) : Out := hostOperation .initReset (bodyInit params) s

/-- `OP` = 0xE (R118). -/
def execReservedE (s : State) : Out := hostOperation .reservedE refuse s

/-- `OP` = 0xF (R118). -/
def execReservedF (s : State) : Out := hostOperation .reservedF refuse s

/-- PICC_HALT (R115): the frame with the CRC bytes it carries is built and sent; nothing of the answer is used (R116). The
bit-framing register is not written (R273). -/
def execPiccHalt (c0 c1 : Byte) (s : State) : Out := .next (sendHalt params c0 c1 (frameHaltHead s))

end Sys2Proof.Machine
end

