-- ==== Sys2Proof/Machine/RegisterAccess.lean ====
section
/-! DEFINITION. The register access controller (40_register_access.md): READREG, WRITEREG, SETBITS, CLRBITS; and the two bus
transactions themselves, BUSRD and BUSWR (30_encoding.md). -/

namespace Sys2Proof.Machine

/-- READREG (R140): `VAL <- BusRead(A)`. -/
def bodyReadreg (p : Config.Params) (s : State) : State := readVal p s.opr.a s

/-- WRITEREG (R141): `BusWrite(A, D)`. -/
def bodyWritereg (s : State) : State := busWrite s.opr.a s.opr.d s

/-- SETBITS (R146): `SetBits(A, D)`. -/
def bodySetbits (p : Config.Params) (s : State) : State := setBits p s.opr.a s.opr.d s

/-- CLRBITS (R147): `ClearBits(A, D)`. -/
def bodyClrbits (p : Config.Params) (s : State) : State := clearBits p s.opr.a s.opr.d s

/-- The operation READREG. -/
def execReadreg (s : State) : Out := hostOperation .readreg (bodyReadreg params) s

/-- The operation WRITEREG. -/
def execWritereg (s : State) : Out := hostOperation .writereg bodyWritereg s

/-- The operation SETBITS. -/
def execSetbits (s : State) : Out := hostOperation (.setbits .read) (bodySetbits params) s

/-- The operation CLRBITS. -/
def execClrbits (s : State) : Out := hostOperation (.clrbits .read) (bodyClrbits params) s

/-- BUSRD (R62, R106): one register read transaction; the byte kept is in `rx`. -/
def execBusrd (a : RegAddr) (s : State) : Out := .next (busRead params (byteOfAddr a) s)

/-- BUSWR (R63, R107): one register write transaction. -/
def execBuswr (a : RegAddr) (v : Byte) (s : State) : Out := .next (busWrite (byteOfAddr a) v s)

end Sys2Proof.Machine
end

