-- ==== Sys2Proof/Machine/Dispatch.lean ====
section
/-! DEFINITION. The meaning of every instruction: one arm a constructor. -/

namespace Sys2Proof.Machine

/-- What an instruction does: a host operation from its `START` to its end, or the word of a lower layer. -/
def exec (i : Instr) (s : State) : Host.Outcome State Fault Refusal :=
  match i with
  | .readreg => Sys2Proof.Machine.execReadreg s
  | .writereg => Sys2Proof.Machine.execWritereg s
  | .setbits => Sys2Proof.Machine.execSetbits s
  | .clrbits => Sys2Proof.Machine.execClrbits s
  | .calccrc => Sys2Proof.Machine.execCalccrc s
  | .tocard => Sys2Proof.Machine.execTocard s
  | .ispresent => Sys2Proof.Machine.execIspresent s
  | .waitpresent => Sys2Proof.Machine.execWaitpresent s
  | .waitremoved => Sys2Proof.Machine.execWaitremoved s
  | .readuid => Sys2Proof.Machine.execReaduid s
  | .select => Sys2Proof.Machine.execSelect s
  | .classify => Sys2Proof.Machine.execClassify s
  | .halt => Sys2Proof.Machine.execHalt s
  | .init => Sys2Proof.Machine.execInit s
  | .reservedE => Sys2Proof.Machine.execReservedE s
  | .reservedF => Sys2Proof.Machine.execReservedF s
  | .busrd a => Sys2Proof.Machine.execBusrd a s
  | .buswr a v => Sys2Proof.Machine.execBuswr a v s
  | .cmdIdle => Sys2Proof.Machine.execCmdIdle s
  | .cmdCalccrc => Sys2Proof.Machine.execCmdCalccrc s
  | .cmdTransceive => Sys2Proof.Machine.execCmdTransceive s
  | .cmdAuthent => Sys2Proof.Machine.execCmdAuthent s
  | .cmdSoftreset => Sys2Proof.Machine.execCmdSoftreset s
  | .cmdOther c => Sys2Proof.Machine.execCmdOther c s
  | .piccRequest m => Sys2Proof.Machine.execPiccRequest m s
  | .piccAnticollision => Sys2Proof.Machine.execPiccAnticollision s
  | .piccSelect u0 u1 u2 u3 u4 c0 c1 => Sys2Proof.Machine.execPiccSelect u0 u1 u2 u3 u4 c0 c1 s
  | .piccHalt c0 c1 => Sys2Proof.Machine.execPiccHalt c0 c1 s

end Sys2Proof.Machine
end

