-- ==== Sys2Proof/Machine/Sequencer.lean ====
section
/-! DEFINITION. The sequencer at the grain of R10: one `tick` is one bus transaction, one delay request or one register-only
update, and `SEQ` moves by it (R27, R28). The meanings of Dispatch.lean give an operation whole; the sequencer runs the same step
lists one position at a time, through the same shared operations. -/

namespace Sys2Proof.Machine

/-- `SEQ <- q`. -/
def goto (q : Seq) (s : State) : State := { s with ctl := { s.ctl with seq := q } }

/-- How many bytes the running `Crc` feeds to the coprocessor: `LEN` under CALCCRC, 7 under SELECT, 2 under HALT (R170). -/
def crcLength (u : CrcUser) (s : State) : Nat :=
  match u with
  | .calccrc => s.hid.flen.toNat
  | .select => 7
  | .halt => 2

/-- Where a `Crc` returns to (R123). -/
def afterCrc : CrcUser → Seq
  | .calccrc => .calccrcResults
  | .select => .selectAppend
  | .halt => .haltAppend

/-- The command byte of the running `Exec`: `D` under TOCARD, else Transceive (R28, R123). -/
def execByte (u : ExecUser) (s : State) : Byte :=
  match u with
  | .tocard => s.opr.d
  | .ispresent | .readuid | .select | .halt => cmdTransceiveByte

/-- Where an `Exec` returns to (R123). -/
def afterExec : ExecUser → Seq
  | .tocard => .tocardResults
  | .ispresent => .ispresentResults
  | .readuid => .readuidResults
  | .select => .selectResults
  | .halt => .haltResults

/-- One position of `Crc` (R161). -/
def tickCrc (p : Config.Params) (u : CrcUser) (c : CrcPos) (s : State) : State :=
  match c with
  | .clear .read => goto (.inCrc u (.clear .write)) (readTmp p p.regCrcirq s)
  | .clear .write => goto (.inCrc u (.flush .read)) (writeClear p.regCrcirq p.crcDone s)
  | .flush .read => goto (.inCrc u (.flush .write)) (readTmp p regFifolevel s)
  | .flush .write => goto (.inCrc u .fifoStart) (writeSet regFifolevel p.fifoFlush s)
  | .fifoStart => goto (.inCrc u .fifo) (setI 0 s)
  | .fifo => if s.hid.i.toNat < crcLength u s then goto (.inCrc u .fifo) (fifoPush s) else goto (.inCrc u .command) s
  | .command => goto (.inCrc u .pollStart) (issueCommand cmdCalccrcByte s)
  | .pollStart => goto (.inCrc u .pollRead) (setCnt (BitVec.ofNat 16 crcPollMax) s)
  | .pollRead => goto (.inCrc u .pollTest) (readN p p.regCrcirq s)
  | .pollTest =>
    let t := countDown s
    goto (.inCrc u (if crcPollDone p t.hid then .resultLo else .pollRead)) t
  | .resultLo => goto (.inCrc u .resultMid) (readC0 p s)
  | .resultMid => goto (afterCrc u) (readC1 p s)

/-- One position of `Exec` (R181). -/
def tickExec (p : Config.Params) (u : ExecUser) (x : ExecPos) (s : State) : State :=
  match x with
  | .setup => goto (.inExec u .enable) (execSetup (execByte u s) s)
  | .enable => goto (.inExec u (.clear .read)) (execEnable p s)
  | .clear .read => goto (.inExec u (.clear .write)) (readTmp p p.regIrqst s)
  | .clear .write => goto (.inExec u (.flush .read)) (writeClear p.regIrqst p.irqClearMask s)
  | .flush .read => goto (.inExec u (.flush .write)) (readTmp p regFifolevel s)
  | .flush .write => goto (.inExec u .idle) (writeSet regFifolevel p.fifoFlush s)
  | .idle => goto (.inExec u .fifoStart) (issueCommand cmdIdleByte s)
  | .fifoStart => goto (.inExec u .fifo) (setI 0 s)
  | .fifo => if s.hid.i.toNat < s.hid.flen.toNat then goto (.inExec u .fifo) (fifoPush s) else goto (.inExec u .command) s
  | .command =>
    goto (.inExec u (if s.hid.cmdr = cmdTransceiveByte then .send .read else .pollStart)) (execCommand s)
  | .send .read => goto (.inExec u (.send .write)) (readTmp p regBitframing s)
  | .send .write => goto (.inExec u .pollStart) (writeSet regBitframing p.startSend s)
  | .pollStart => goto (.inExec u .pollRead) (setCnt (BitVec.ofNat 16 execPollMax) s)
  | .pollRead => goto (.inExec u .pollTest) (readN p p.regIrqst s)
  | .pollTest =>
    let t := countDown s
    goto (.inExec u (if execPollDone p t.hid then .stop .read else .pollDelay)) t
  | .pollDelay => goto (.inExec u .pollRead) (delay execPollDelayMs s)
  | .stop .read => goto (.inExec u (.stop .write)) (readTmp p regBitframing s)
  | .stop .write =>
    goto (if s.hid.cnt = 0 then afterExec u else .inExec u .errorRead) (writeClear regBitframing p.startSend s)
  | .errorRead => goto (.inExec u .judge) (readE p s)
  | .judge =>
    let t := execJudge p s
    goto (if anyBit t.hid.e errMask then afterExec u
      else if t.hid.cmdr = cmdTransceiveByte then .inExec u .level else afterExec u) t
  | .level => goto (.inExec u .control) (readL p s)
  | .control => goto (.inExec u .count) (readLastbits p s)
  | .count => goto (.inExec u .drain) (execCount s)
  | .drain => if s.hid.i.toNat < s.hid.xlen.toNat then goto (.inExec u .drain) (drainOne p s) else goto (afterExec u) s

/-- One position of INIT's step 2 (R278): a read-modify-write item takes two positions, and the end of the list one. -/
def tickInit (p : Config.Params) (k : Nat) (r : RmwPos) (s : State) : State :=
  match (p.initSequence s.opr.d)[k]?, r with
  | none, _ => goto .initVersion s
  | some (.w a v), _ => goto (.initItem (k + 1) .read) (busWrite a v s)
  | some (.s a _), .read => goto (.initItem k .write) (readTmp p a s)
  | some (.s a m), .write => goto (.initItem (k + 1) .read) (writeSet a m s)
  | some (.c a _), .read => goto (.initItem k .write) (readTmp p a s)
  | some (.c a m), .write => goto (.initItem (k + 1) .read) (writeClear a m s)
  | some (.dly ms), _ => goto (.initItem (k + 1) .read) (delay ms s)

/-- One step of the engine (R10). In `SEQ = Idle` it waits for the host (R340). -/
def tick (p : Config.Params) (s : State) : State :=
  match s.ctl.seq with
  | .idle => s
  | .readreg => finish (bodyReadreg p s)
  | .writereg => finish (bodyWritereg s)
  | .setbits .read => goto (.setbits .write) (readTmp p s.opr.a s)
  | .setbits .write => finish (writeSet s.opr.a s.opr.d s)
  | .clrbits .read => goto (.clrbits .write) (readTmp p s.opr.a s)
  | .clrbits .write => finish (writeClear s.opr.a s.opr.d s)
  | .calccrcLoad =>
    if fifoCapacity < s.opr.len.toNat then finish (refuse s) else goto (.inCrc .calccrc (.clear .read)) (loadFrame s)
  | .calccrcResults => finish (deliverCrc s)
  | .tocardLoad =>
    if fifoCapacity < s.opr.len.toNat then finish (refuse s) else goto (.inExec .tocard .setup) (loadFrame s)
  | .tocardResults => finish (deliver s.hid.xst s)
  | .ispresentFraming => goto .ispresentFrame (busWrite regBitframing p.bitframingShort s)
  | .ispresentFrame => goto (.inExec .ispresent .setup) (frameRequest s.opr.d s)
  | .ispresentResults => finish (deliver (presenceGate s.hid.xst s.hid.xbits) s)
  | .waitpresentStart => goto .waitpresentTest (setCnt s.opr.t s)
  | .waitpresentTest => if s.hid.cnt = 0 then finish (setFlag false s) else goto .waitpresentFraming s
  | .waitpresentFraming => goto .waitpresentPoll (busWrite regBitframing p.presentBitframing s)
  | .waitpresentPoll => goto .waitpresentMatch (readN p p.regIrqst s)
  | .waitpresentMatch => goto (if p.presentMatch s.hid.n then .waitpresentClear .read else .waitpresentDelay) s
  | .waitpresentClear .read => goto (.waitpresentClear .write) (readTmp p p.regIrqst s)
  | .waitpresentClear .write => goto .waitpresentFound (writeClear p.regIrqst p.irqClearMask s)
  | .waitpresentFound => finish (setFlag true s)
  | .waitpresentDelay => goto .waitpresentCount (delay presentDelayMs s)
  | .waitpresentCount => goto .waitpresentTest (countDown s)
  | .waitremovedFraming => goto .waitremovedStart (busWrite regBitframing p.bitframingFull s)
  | .waitremovedStart => goto .waitremovedTest (setCnt s.opr.t s)
  | .waitremovedTest => if s.hid.cnt = 0 then finish (setFlag false s) else goto .waitremovedPoll s
  | .waitremovedPoll => goto .waitremovedMatch (readN p p.regIrqst s)
  | .waitremovedMatch => if p.removedMatch s.hid.n then finish (setFlag true s) else goto .waitremovedDelay s
  | .waitremovedDelay => goto .waitremovedCount (delay removedDelayMs s)
  | .waitremovedCount => goto .waitremovedTest (countDown s)
  | .readuidFraming => goto .readuidFrame (busWrite regBitframing p.bitframingFull s)
  | .readuidFrame => goto (.inExec .readuid .setup) (frameAnticollision s)
  | .readuidResults => finish (deliver (uidStatus s.hid.xst s.hid.xbuf) s)
  | .selectFrame => goto (.inCrc .select (.clear .read)) (frameSelectHead (uidOperand s.opr) s)
  | .selectAppend => goto (.inExec .select .setup) (appendCrc 7 s.hid.c0 s.hid.c1 s)
  | .selectResults => finish (deliverCrc (setVal (selectGate s.hid.xst s.hid.xbits s.hid.xbuf) s))
  | .classify => finish (bodyClassify s)
  | .haltFrame => goto (.inCrc .halt (.clear .read)) (frameHaltHead s)
  | .haltAppend => goto (.inExec .halt .setup) (appendCrc 2 s.hid.c0 s.hid.c1 s)
  | .haltResults => finish (deliverCrc s)
  | .initReset => goto (.initItem 0 .read) (issueCommand cmdSoftresetByte s)
  | .initItem k r => tickInit p k r s
  | .initVersion => goto .initResults (busRead p regVersion s)
  | .initResults => finish (initConclude p s)
  | .reservedE => finish (refuse s)
  | .reservedF => finish (refuse s)
  | .inCrc u c => tickCrc p u c s
  | .inExec u x => tickExec p u x s

/-- `n` steps of the engine. -/
def ticks (p : Config.Params) : Nat → State → State
  | 0, s => s
  | n + 1, s => ticks p n (tick p s)

/-- The first position of an operation, by operation code (R28, R102). -/
def firstPosition (op : BitVec 4) : Seq :=
  match decodeOp op with
  | .readreg => .readreg
  | .writereg => .writereg
  | .setbits => .setbits .read
  | .clrbits => .clrbits .read
  | .calccrc => .calccrcLoad
  | .tocard => .tocardLoad
  | .ispresent => .ispresentFraming
  | .waitpresent => .waitpresentStart
  | .waitremoved => .waitremovedFraming
  | .readuid => .readuidFraming
  | .select => .selectFrame
  | .classify => .classify
  | .halt => .haltFrame
  | .init => .initReset
  | .reservedE => .reservedE
  | .reservedF | .busrd _ | .buswr _ _ | .cmdIdle | .cmdCalccrc | .cmdTransceive | .cmdAuthent | .cmdSoftreset
  | .cmdOther _ | .piccRequest _ | .piccAnticollision | .piccSelect _ _ _ _ _ _ _ | .piccHalt _ _ => .reservedF

/-- `START` taken as a step of R10, a register-only update: the operation `OP` names is at its first step (R28). -/
def launch (s : State) : State := takeStart (firstPosition s.opr.op) s

/-- One step of the engine (R10): one bus transaction, one delay request or one register-only update. Raised `START` is taken by
the register-only update of R28, or is `fault Overlap` while an operation runs (R302); else `SEQ` moves by one position, or the
engine waits in `Idle`. -/
def engineStep (p : Config.Params) (s : State) : Out :=
  if s.ctl.start then (if s.ctl.busy then .fault .overlap else .next (launch s)) else .next (tick p s)

/-! ### `SEQ` as the triple of R27. -/

/-- The sub-step of `SEQ`: the position inside a called sequence. -/
inductive SubStep where
  | none
  | rmw (r : RmwPos)
  | crc (c : CrcPos)
  | exec (x : ExecPos)
deriving DecidableEq, Repr

/-- The operation of `SEQ`. -/
def Seq.operation : Seq → Option Instr
  | .idle => .none
  | .readreg => some .readreg
  | .writereg => some .writereg
  | .setbits _ => some .setbits
  | .clrbits _ => some .clrbits
  | .calccrcLoad | .calccrcResults | .inCrc .calccrc _ => some .calccrc
  | .tocardLoad | .tocardResults | .inExec .tocard _ => some .tocard
  | .ispresentFraming | .ispresentFrame | .ispresentResults | .inExec .ispresent _ => some .ispresent
  | .waitpresentStart | .waitpresentTest | .waitpresentFraming | .waitpresentPoll | .waitpresentMatch | .waitpresentClear _
  | .waitpresentFound | .waitpresentDelay | .waitpresentCount => some .waitpresent
  | .waitremovedFraming | .waitremovedStart | .waitremovedTest | .waitremovedPoll | .waitremovedMatch | .waitremovedDelay
  | .waitremovedCount => some .waitremoved
  | .readuidFraming | .readuidFrame | .readuidResults | .inExec .readuid _ => some .readuid
  | .selectFrame | .selectAppend | .selectResults | .inCrc .select _ | .inExec .select _ => some .select
  | .classify => some .classify
  | .haltFrame | .haltAppend | .haltResults | .inCrc .halt _ | .inExec .halt _ => some .halt
  | .initReset | .initItem _ _ | .initVersion | .initResults => some .init
  | .reservedE => some .reservedE
  | .reservedF => some .reservedF

/-- The step number of `SEQ` in its operation's rule, the first of the steps a position covers; the statements of the two wait
rules are numbered in their order of text. -/
def Seq.stepNumber : Seq → Nat
  | .idle => 0
  | .readreg | .writereg | .setbits _ | .clrbits _ | .calccrcLoad | .tocardLoad | .ispresentFraming | .waitpresentStart
  | .waitremovedFraming | .readuidFraming | .selectFrame | .classify | .haltFrame | .initReset | .reservedE | .reservedF => 1
  | .ispresentFrame | .waitpresentTest | .waitremovedStart | .readuidFrame | .initItem _ _ | .inCrc .select _
  | .haltAppend | .inCrc .halt _ => 2
  | .inCrc .calccrc _ | .inExec .tocard _ | .inExec .ispresent _ | .inExec .readuid _ | .inExec .halt _
  | .waitpresentFraming | .waitremovedTest | .selectAppend | .initVersion => 3
  | .calccrcResults | .tocardResults | .ispresentResults | .readuidResults | .inExec .select _ | .waitpresentPoll
  | .waitremovedPoll | .haltResults | .initResults => 4
  | .selectResults | .waitpresentMatch | .waitpresentClear _ | .waitpresentFound | .waitremovedMatch => 5
  | .waitpresentDelay | .waitremovedDelay => 6
  | .waitpresentCount | .waitremovedCount => 7

/-- The sub-step of a position. -/
def Seq.subStep : Seq → SubStep
  | .setbits r | .clrbits r | .waitpresentClear r | .initItem _ r => .rmw r
  | .inCrc _ c => .crc c
  | .inExec _ x => .exec x
  | .idle | .readreg | .writereg | .calccrcLoad | .calccrcResults | .tocardLoad | .tocardResults | .ispresentFraming
  | .ispresentFrame | .ispresentResults | .waitpresentStart | .waitpresentTest | .waitpresentFraming | .waitpresentPoll
  | .waitpresentMatch | .waitpresentFound | .waitpresentDelay | .waitpresentCount | .waitremovedFraming | .waitremovedStart
  | .waitremovedTest | .waitremovedPoll | .waitremovedMatch | .waitremovedDelay | .waitremovedCount | .readuidFraming
  | .readuidFrame | .readuidResults | .selectFrame | .selectAppend | .selectResults | .classify | .haltFrame | .haltAppend
  | .haltResults | .initReset | .initVersion | .initResults | .reservedE | .reservedF => .none

end Sys2Proof.Machine
end

