-- ==== Sys2Proof/Machine/HostPort.lean ====
section
/-! DEFINITION. What the host can do to the block: write an operand register, raise `START`, reset the engine (R11, R22, R26,
R320), and the host program lines of R121 and R122 as such actions. The bytes the environment will answer are put in by `provide`.
-/

namespace Sys2Proof.Machine

/-- A host write of one operand register. -/
inductive HostWrite where
  | op (v : BitVec 4)
  | a (v : Byte)
  | d (v : Byte)
  | t (v : BitVec 16)
  | buf (i : Fin 64) (v : Byte)
  | len (v : BitVec 7)
deriving DecidableEq, Repr

/-- The operand registers after a host write: plain storage, no aliasing (R21, R25). -/
def writeOperand (w : HostWrite) (o : Operands) : Operands :=
  match w with
  | .op v => { o with op := v }
  | .a v => { o with a := v }
  | .d v => { o with d := v }
  | .t v => { o with t := v }
  | .buf i v => { o with buf := o.buf.set i v }
  | .len v => { o with len := v }

/-- The host writes an operand register: only while `BUSY = 0`, else `fault Overlap` (R22, R302). -/
def hostWrite (w : HostWrite) (s : State) : Out :=
  if s.ctl.busy then .fault .overlap else .next { s with opr := writeOperand w s.opr }

/-- The host raises `START`: only while `BUSY = 0`, else `fault Overlap` (R26, R302). -/
def hostStart (s : State) : Out :=
  if s.ctl.busy then .fault .overlap else .next { s with ctl := { s.ctl with start := true } }

/-- The engine's reset (R320). The PCD, its coming answers and what has been observed of it are not reached (R321). An operation
in progress is abandoned where it stands (R324). -/
def hostReset (s : State) : State :=
  { State.reset with bus := { s.bus with cs := false, rx := 0 } }

/-- The environment will return these bytes to the next reads (R66). -/
def provide (answers : List Byte) (s : State) : State := { s with bus := { s.bus with answers := answers } }

/-- A line of a host program (R121). -/
inductive Line where
  | readreg (a : Byte)
  | writereg (a v : Byte)
  | setbits (a m : Byte)
  | clrbits (a m : Byte)
  | calccrc (bytes : List Byte)
  | tocard (cmd : Byte) (bytes : List Byte)
  | ispresent (mode : Byte)
  | waitpresent (ticks : BitVec 16)
  | waitremoved (ticks : BitVec 16)
  | readuid
  | select (u0 u1 u2 u3 bcc : Byte)
  | classify (sak : Byte)
  | halt
  | init (hint : Byte)
deriving DecidableEq, Repr

/-- The operation code of a line (R102). -/
def Line.op : Line → BitVec 4
  | .readreg _ => 0x0
  | .writereg _ _ => 0x1
  | .setbits _ _ => 0x2
  | .clrbits _ _ => 0x3
  | .calccrc _ => 0x4
  | .tocard _ _ => 0x5
  | .ispresent _ => 0x6
  | .waitpresent _ => 0x7
  | .waitremoved _ => 0x8
  | .readuid => 0x9
  | .select _ _ _ _ _ => 0xA
  | .classify _ => 0xB
  | .halt => 0xC
  | .init _ => 0xD

/-- The operand registers a line writes, before `OP` (R121). DESIGN CHOICE (log entry 22): of a CALCCRC or TOCARD line with more
bytes than the registers can hold, the bytes past `BUF[63]` are written nowhere and `LEN` takes the number of bytes modulo 128,
where R121 sets no limit and names no refusal. -/
def Line.operands (o : Operands) : Line → Operands
  | .readreg a => { o with a := a }
  | .writereg a v => { o with a := a, d := v }
  | .setbits a m => { o with a := a, d := m }
  | .clrbits a m => { o with a := a, d := m }
  | .calccrc bs => { o with buf := storeBytes o.buf bs, len := BitVec.ofNat 7 bs.length }
  | .tocard c bs => { o with d := c, buf := storeBytes o.buf bs, len := BitVec.ofNat 7 bs.length }
  | .ispresent m => { o with d := m }
  | .waitpresent t => { o with t := t }
  | .waitremoved t => { o with t := t }
  | .readuid => o
  | .select u0 u1 u2 u3 u4 => { o with buf := storeBytes o.buf [u0, u1, u2, u3, u4] }
  | .classify sak => { o with d := sak }
  | .halt => o
  | .init h => { o with d := h }

/-- A line up to its `START`: the operand registers written, `OP` written, `START` raised. -/
def Line.submit (l : Line) (s : State) : State :=
  { s with opr := { l.operands s.opr with op := l.op }, ctl := { s.ctl with start := true } }

/-! The pseudo-operations of R122. -/

def pseudoReqa : Line := .ispresent piccReqa
def pseudoIdle : Line := .writereg regCommand cmdIdleByte
def pseudoSoftreset : Line := .writereg regCommand cmdSoftresetByte
def pseudoFlushfifo : Line := .setbits regFifolevel params.fifoFlush
def pseudoClrirq : Line := .clrbits params.regIrqst params.irqClearMask
def pseudoStartsend : Line := .setbits regBitframing params.startSend
def pseudoStopsend : Line := .clrbits regBitframing params.startSend

end Sys2Proof.Machine
end

