-- ==== Sys2Proof/Machine/Fetch.lean ====
section
/-! DEFINITION. The request port: the word, if any, that the next step runs whole. The block itself fetches nothing from a memory
(R78); its operations are started by `START`. -/

namespace Sys2Proof.Machine

/-- The instruction that stands in the request port, with the state it runs in. -/
inductive Fetched where
  /-- No request. -/
  | nothing
  /-- The request port holds bytes that are no encoding. -/
  | bad
  /-- An instruction. -/
  | run (i : Instr) (s : State)
deriving DecidableEq, Repr

/-- The word of the request port, emptied by being read (log entry 7). -/
def fetch (s : State) : Fetched :=
  match s.request with
  | some r =>
    match decode r.format r.bytes with
    | .ok i => .run i { s with request := none }
    | .error _ => .bad
  | none => .nothing

/-- A table word put where the next step finds it: in the request port, in its format. -/
def placeWord (s : State) (nbits w : Nat) : State := { s with request := some ⟨tableFormat nbits w, tableBytes nbits w⟩ }

end Sys2Proof.Machine
end

