-- ==== Sys2Proof/Machine/Step.lean ====
section
/-! DEFINITION. The step of the machine. -/

namespace Sys2Proof.Machine

/-- One step: a step of R10, in which a raised `START` is taken (R28), an operation in progress moves by one position, or the
engine waits for the host (R320, R340). Only a word in the request port, which is the model's own, is run whole (log entries 7 and
9). -/
def step (s : State) : Host.Outcome State Fault Refusal :=
  match fetch s with
  | .run i t => exec i t
  | .bad => .refused .undecodable
  | .nothing => engineStep params s

/-- The state with a word of spec/opcode_table.json placed where the next step runs it. -/
def State.withFetchWord (s : State) (nbits w : Nat) : State := placeWord s nbits w

end Sys2Proof.Machine
end

