-- ==== Sys2Proof/Machine/Contract.lean ====
section
/-! DEFINITION. What the spec lets a claim assume of the environment (R80 to R83, R166). No definition of the machine uses this
file: the engine's rules put no constraint on the bytes the PCD returns (R66). -/

namespace Sys2Proof.Machine

/-- The PCD FIFO as far as the engine's own events move it: a write of the data register appends, a read removes from the front, a
write of the level register with the flush bit empties it (R71, R80). What the PCD consumes or receives is not in the trace.
DESIGN CHOICE (log entry 21): a 65th byte is appended like any other, so the list counts the engine's own bytes without bound,
where R81 does not say what the PCD does; and a read of the empty FIFO leaves it empty, where R191 says only that the byte read is
open; and no write of `COMMAND` changes the list, SoftReset (0x0F) included, after which R280 leaves the PCD's state, its FIFO
with it, at any value. -/
def fifoEvent (p : Config.Params) (q : List Byte) : Event → List Byte
  | .rd a _ => if byteOfAddr a = regFifodata then q.drop 1 else q
  | .wr a v =>
    if byteOfAddr a = regFifodata then q ++ [v]
    else if byteOfAddr a = regFifolevel ∧ anyBit v p.fifoFlush then []
    else q
  | .delay _ => q

/-- The FIFO after a sequence of events, from an unknown content that a first flush makes empty. -/
def fifoAfter (p : Config.Params) (q : List Byte) (events : List Event) : List Byte := events.foldl (fifoEvent p) q

/-- What the PCD presents as the CRC result when CalcCRC is written after the events `pre`: `CRC_A` of its FIFO's content (R82).
-/
def crcPresented (p : Config.Params) (q : List Byte) (pre : List Event) : Byte × Byte := p.crcA (fifoAfter p q pre)

/-- The bits of the request frame that go out while `BITFRAMING` asks for a short frame: `SHORT_FRAME_BITS` of them (R6, R112).
That they are the low seven of the byte is R112's own general knowledge (PRESUMED, log entry 6). -/
def shortFrameOnAir (m : Byte) : BitVec shortFrameBits := m.setWidth shortFrameBits

end Sys2Proof.Machine
end

