-- ==== Sys2Proof/Safety.lean ====
section
/-! DEFINITION. The terms the statements use: the invariant, what an operation may change, what it costs, and runs that differ
only in the hidden registers. -/

namespace Sys2Proof.Safety

open Sys2Proof.Machine

/-! ### Invariants. -/

/-- The handshake and the sequencer agree (R59). -/
abbrev HandshakeOk (c : Control) : Prop := (c.busy = true ↔ c.seq ≠ .idle) ∧ (c.done = true → c.busy = false)

/-- The counts stay in the ranges R23 and R31 give them. -/
abbrev CountsOk (s : State) : Prop :=
  s.hid.flen.toNat ≤ 64 ∧ s.hid.i.toNat ≤ 64 ∧ s.hid.xlen.toNat ≤ 16 ∧ s.res.rlen.toNat ≤ 16

/-- The invariant of the machine: R59, the ranges of the counts, and chip-select released between steps (R61). -/
abbrev Inv (s : State) : Prop := HandshakeOk s.ctl ∧ CountsOk s ∧ s.bus.cs = false

/-! ### The end of an operation and the result registers it writes. -/

/-- The handshake and the sequencer as every host operation leaves them (R28). -/
def endedControl : Control where
  start := false
  busy := false
  done := true
  seq := .idle

/-- CALCCRC and TOCARD with `LEN` above 64 (R118, R184). -/
def refusedOperands (o : Operands) (i : Instr) : Bool := (i == .calccrc || i == .tocard) && decide (64 < o.len.toNat)

/-- The rows of the matrix of R24: from `r` to `r'` nothing changes but the result registers marked for the operation; a refused
operation writes `STATUS <- Error`. -/
def WritesOnly (i : Instr) (r r' : Results) : Prop :=
  match i with
  | .readreg => r' = { r with val := r'.val }
  | .writereg | .setbits | .clrbits => r' = r
  | .calccrc | .halt => r' = { r with crc0 := r'.crc0, crc1 := r'.crc1 }
  | .tocard | .ispresent | .readuid => r' = { r with status := r'.status, bits := r'.bits, rlen := r'.rlen, rbuf := r'.rbuf }
  | .waitpresent | .waitremoved => r' = { r with flag := r'.flag }
  | .select => r' = { r with val := r'.val, crc0 := r'.crc0, crc1 := r'.crc1 }
  | .classify => r' = { r with ctype := r'.ctype }
  | .init => r' = { r with status := r'.status, val := r'.val }
  | .reservedE | .reservedF => r' = { r with status := .error }
  | .busrd _ | .buswr _ _ | .cmdIdle | .cmdCalccrc | .cmdTransceive | .cmdAuthent | .cmdSoftreset | .cmdOther _
  | .piccRequest _ | .piccAnticollision | .piccSelect _ _ _ _ _ _ _ | .piccHalt _ _ => r' = r

/-- The matrix with its last row: refused operands (R24). -/
def MatrixRow (i : Instr) (s t : State) : Prop :=
  if refusedOperands s.opr i then t.res = { s.res with status := .error } else WritesOnly i s.res t.res

/-! ### Runs. -/

/-- `n` steps of the machine, up to the first that gives no next state. -/
def runSteps : Nat → State → Out
  | 0, s => .next s
  | n + 1, s =>
    match step s with
    | .next t => runSteps n t
    | .fault f => .fault f
    | .refused r => .refused r

/-! ### Host program lines. -/

/-- A submitted line leaves the operand registers `o` with the operation code `op` in `OP` and `START` raised, and nothing else
changed, and the next step takes that `START`: `SEQ` stands at the first step of the operation `i` (R28, R121). -/
def LineRuns (l : Line) (i : Instr) (op : BitVec 4) (o : Operands) (s : State) : Prop :=
  l.submit s = { s with opr := { o with op := op }, ctl := { s.ctl with start := true } } ∧
  ∃ q : Seq, q.operation = some i ∧ q.stepNumber = 1 ∧ (s.request = none → step (l.submit s) =
    .next { s with opr := { o with op := op }, ctl := { start := false, busy := true, done := false, seq := q } })

/-! ### The bus after one transaction. -/

/-- The bus after a read of address `a`: the environment's next answer is taken and traced (R62). -/
def afterRead (a : RegAddr) (b : Bus) : Bus where
  cs := false
  rx := nextAnswer b
  answers := b.answers.tail
  reads := b.reads + 1
  trace := b.trace ++ [.rd a (nextAnswer b)]

/-- The bus after a write of `v` to address `a` (R63). -/
def afterWrite (a : RegAddr) (v : Byte) (b : Bus) : Bus where
  cs := false
  rx := b.rx
  answers := b.answers
  reads := b.reads
  trace := b.trace ++ [.wr a v]

/-! ### Events. -/

/-- A bus transaction, not a delay. -/
def isTransaction : Event → Bool
  | .rd _ _ => true
  | .wr _ _ => true
  | .delay _ => false

/-- How many bus transactions a trace holds (R347). -/
def transactions (events : List Event) : Nat := events.countP isTransaction

/-- How many delay requests a trace holds (R347). -/
def delays (events : List Event) : Nat := events.countP (fun e => !isTransaction e)

/-- The events an operation added. -/
def added (s t : State) : List Event := t.bus.trace.drop s.bus.trace.length

/-- The FIFO writes of a byte sequence, in order (R68). -/
def fifoWrites (bytes : List Byte) : List Event := bytes.map fun b => .wr 0x09 b

/-- The polls of an IRQ-status register that ended no loop, each with its delay (R188, R220, R226). -/
def polls (a : RegAddr) (ms : Nat) (bytes : List Byte) : List Event := bytes.flatMap fun b => [.rd a b, .delay ms]

/-- The events of `Crc` up to its command: the flag clear, the flush, the bytes, CalcCRC; `f` and `l` are the bytes read (R161).
-/
def crcOpening (f l : Byte) (bytes : List Byte) : List Event :=
  Event.rd 0x05 f :: Event.wr 0x05 (f &&& 0xFB) :: Event.rd 0x0A l :: Event.wr 0x0A (l ||| 0x80) ::
    (fifoWrites bytes ++ [Event.wr 0x01 0x03])

/-- The events of `Exec` up to its command: the enable byte, the flag clear, the flush, Idle, the frame, the command; `f` and `l`
are the bytes read (R181 steps 2 to 4). -/
def execOpening (enable f l : Byte) (frame : List Byte) (cmd : Byte) : List Event :=
  Event.wr 0x02 enable :: Event.rd 0x04 f :: Event.wr 0x04 (f &&& 0x7F) :: Event.rd 0x0A l :: Event.wr 0x0A (l ||| 0x80) ::
    Event.wr 0x01 0x00 :: (fifoWrites frame ++ [Event.wr 0x01 cmd])

/-- The start-send of `Exec` over the byte read (R181 step 5). -/
def startSend (b : Byte) : List Event := [Event.rd 0x0D b, Event.wr 0x0D (b ||| 0x80)]

/-- The stop-send of `Exec` over the byte read (R181 step 7). -/
def stopSend (b : Byte) : List Event := [Event.rd 0x0D b, Event.wr 0x0D (b &&& 0x7F)]

/-- The bus transactions and delays of the steps of `INIT_SEQUENCE` (R278, R347). -/
def initCost : List Config.InitStep → Nat × Nat
  | [] => (0, 0)
  | .w _ _ :: r => ((initCost r).1 + 1, (initCost r).2)
  | .s _ _ :: r => ((initCost r).1 + 2, (initCost r).2)
  | .c _ _ :: r => ((initCost r).1 + 2, (initCost r).2)
  | .dly _ :: r => ((initCost r).1, (initCost r).2 + 1)

/-- The most bus transactions and delays of an instruction: for a host operation the columns of R347; for a bus word, a PCD
command and a card frame, which have no row there, the count of the model's reading of the row (log entries 10 and 11). -/
def costCeiling (p : Config.Params) (o : Operands) : Instr → Nat × Nat
  | .readreg | .writereg => (1, 0)
  | .setbits | .clrbits => (2, 0)
  | .calccrc => (326, 0)
  | .tocard => (2093, 1999)
  | .ispresent => (2031, 1999)
  | .readuid => (2032, 1999)
  | .select => (2307, 1999)
  | .halt => (2297, 1999)
  | .waitpresent => (2 * o.t.toNat + 2, o.t.toNat)
  | .waitremoved => (1 + o.t.toNat, o.t.toNat)
  | .classify | .reservedE | .reservedF => (0, 0)
  | .init => (2 + (initCost (p.initSequence o.d)).1, (initCost (p.initSequence o.d)).2)
  | .busrd _ | .buswr _ _ | .cmdIdle | .cmdCalccrc | .cmdTransceive | .cmdAuthent | .cmdSoftreset | .cmdOther _ => (1, 0)
  | .piccRequest _ => (2031, 1999)
  | .piccAnticollision => (2032, 1999)
  | .piccSelect _ _ _ _ _ _ _ => (2038, 1999)
  | .piccHalt _ _ => (2033, 1999)

/-! ### Answers of the PCD. -/

/-- The bytes drained into the receive buffer, zeros after them (R182, R191). -/
def receiveBuffer (data : List Byte) : Vector Byte 16 := Vector.ofFn fun k => data.getD k.val 0

/-- The events of the steps of `INIT_SEQUENCE`, whatever bytes its reads return (R278). -/
def InitTrace : List Config.InitStep → List Event → Prop
  | [], evs => evs = []
  | .w a v :: r, evs => ∃ rest, evs = .wr (a.setWidth 6) v :: rest ∧ InitTrace r rest
  | .s a m :: r, evs => ∃ x rest, evs = .rd (a.setWidth 6) x :: .wr (a.setWidth 6) (x ||| m) :: rest ∧ InitTrace r rest
  | .c a m :: r, evs => ∃ x rest, evs = .rd (a.setWidth 6) x :: .wr (a.setWidth 6) (x &&& ~~~m) :: rest ∧ InitTrace r rest
  | .dly ms :: r, evs => ∃ rest, evs = .delay ms :: rest ∧ InitTrace r rest

/-- A frame of the engine's own was built and sent: after the events `framing` come the opening of `Exec` over the frame's bytes,
up to the Transceive command, and the start-send, by which the transmission begins (R181, R187); no operand, result, handshake or
request register changes (R111). -/
def FrameSent (framing : List Event) (frame : List Byte) (s t : State) : Prop :=
  t.opr = s.opr ∧ t.res = s.res ∧ t.ctl = s.ctl ∧ t.request = s.request ∧
  firstBytes t.hid.frame frame.length = frame ∧ t.hid.flen.toNat = frame.length ∧
  ∃ f l b post, t.bus.trace = s.bus.trace ++ framing ++ execOpening 0xF7 f l frame 0x0C ++ startSend b ++ post

/-! ### The classifier. -/

/-- The classifier by cases: the bits of the byte and its direct values, the strongest case first (R264). -/
def cardTypeByCases (d : Byte) : CardType :=
  if d.getLsbD 6 then .iso18092
  else if d.getLsbD 5 then .iso14443_4
  else if d = 0x09 then .mifareMini
  else if d = 0x08 then .mifare1K
  else if d = 0x18 then .mifare4K
  else if d = 0x00 then .mifareUltralight
  else if d = 0x10 ∨ d = 0x11 then .mifarePlus
  else if d = 0x01 then .tnp3xxx
  else if d.getLsbD 2 then .notComplete
  else .unknown

/-! ### Runs that differ only in hidden registers. -/

/-- Two outcomes that agree on all but the hidden registers. -/
def AgreeButHidden : Out → Out → Prop
  | .next s, .next t => { s with hid := t.hid } = t
  | .fault a, .fault b => a = b
  | .refused a, .refused b => a = b
  | _, _ => False

end Sys2Proof.Safety
end

