-- ==== Sys2Proof/Certificates/Slice0/Obligations.lean ====
section
/-! DEFINITION. The statements for the provers. Addresses, masks and register values stand in them as numbers; those that R7 names
are the spec's defaults, confirmed by no source (log entry 4). -/

open Sys2Proof Sys2Proof.Machine Sys2Proof.Safety

/-! ### Encodings. -/

/-- Decoding the encoding of a well-formed instruction gives it back, in its format. -/
def Obligations.DecodeOfEncode : Prop :=
  ∀ i : Instr, i.wellFormed = true → decode i.format (encode i) = .ok i

/-- What decodes is well formed, of the format it was read in, and encodes to the bytes it was read from. -/
def Obligations.EncodeOfDecode : Prop :=
  ∀ (f : Format) (bytes : List Byte) (i : Instr), decode f bytes = .ok i →
    i.wellFormed = true ∧ i.format = f ∧ encode i = bytes

/-- Words written out from the tables of R102, R106, R107, R109, R110 and R112 to R115 decode to what they stand for, and a
reserved address byte does not decode. -/
def Obligations.WordsOfTheSpecDecode : Prop :=
  decode .hop [0b00001101] = .ok .init ∧ decode .hop [0b00001110] = .ok .reservedE ∧
  decode .bus [0b11101110, 0b00000000] = .ok (.busrd 0x37) ∧ decode .bus [0b00011010, 0b00000111] = .ok (.buswr 0x0D 0x07) ∧
  decode .bus [0b00011011, 0b00000111] = .error .busAddressBit ∧
  decode .pcdcmd [0b00001100] = .ok .cmdTransceive ∧ decode .pcdcmd [0b10001100] = .ok (.cmdOther 0x8C) ∧
  decode .picc [0b10010011, 0b00100000] = .ok .piccAnticollision ∧
  decode .picc [0b01010000, 0b00000000, 0x57, 0xCD] = .ok (.piccHalt 0x57 0xCD)

/-- R64 (which the spec derives from R62 and R63): bit 7 of the address byte is the direction, bits 6 to 1 are `a[5:0]`, bit 0 is
0; for an address below 0x40 the bytes are `0x80 | (a << 1)` and `a << 1`. -/
def Obligations.AddressByteFields : Prop :=
  ∀ a : Byte,
    isReadByte (readAddressByte a) = true ∧ addressField (readAddressByte a) = a.setWidth 6 ∧
    (readAddressByte a).getLsbD 0 = false ∧
    isReadByte (writeAddressByte a) = false ∧ addressField (writeAddressByte a) = a.setWidth 6 ∧
    (writeAddressByte a).getLsbD 0 = false ∧
    (a.toNat < 0x40 → readAddressByte a = 0x80 ||| (a <<< 1) ∧ writeAddressByte a = a <<< 1)

/-- R142 (which the spec derives from R108): an address operand and its low six bits make identical transactions, and the trace
records the low six bits. -/
def Obligations.AddressOperandsAlias : Prop :=
  ∀ (a v : Byte) (s : State),
    busRead params a s = busRead params (a &&& 0x3F) s ∧ busWrite a v s = busWrite (a &&& 0x3F) v s ∧
    readAddressByte a = readAddressByte (a &&& 0x3F) ∧ writeAddressByte a = writeAddressByte (a &&& 0x3F) ∧
    (busRead params a s).bus.trace = s.bus.trace ++ [Event.rd (a.setWidth 6) (nextAnswer s.bus)] ∧
    (busWrite a v s).bus.trace = s.bus.trace ++ [Event.wr (a.setWidth 6) v]

/-- R106, R107: the two bytes sent for a register read and for a register write; the address bytes are the document's formulas
over an 8-bit address operand, and the second byte of a read, 0x00, is the dummy byte of the spec's decision D8 (log entry 4). -/
def Obligations.BusBytesByFormula : Prop :=
  ∀ (a v : Byte),
    wireBytes params (Event.rd (a.setWidth 6) v) = [((a <<< 1) &&& 0xFE) ||| 0x80, 0x00] ∧
    wireBytes params (Event.wr (a.setWidth 6) v) = [(a <<< 1) &&& 0x7E, v]

/-- The words `BUSRD` and `BUSWR` are the bytes the engine shifts out for the events `RD` and `WR` (R62, R63, R106, R107), in one
chip-select window of sixteen clock pulses (R61, R65). Each pulse shifts one bit out and one bit in, bit 7 first in both
directions (R60, R65), and after eight of them the byte shifted in is the byte received; in the second exchange of a read that is
the byte of the event. The dummy byte, the discarding of the other received bytes and the level of chip-select are the spec's
decisions D8 and D7, not the source's. -/
def Obligations.BusWordsAreTheWire : Prop :=
  (∀ (a : RegAddr) (v : Byte),
    wireBytes params (Event.rd a v) = encode (.busrd a) ∧ wireBytes params (Event.wr a v) = encode (.buswr a v)) ∧
  (∀ sent received : Byte, exchangeByte sent (bitsMsbFirst received) = received ∧
    exchangePulses sent (bitsMsbFirst received) = List.zipWith .clock (bitsMsbFirst sent) (bitsMsbFirst received)) ∧
  ∀ (x y : Byte) (ev : Event), isTransaction ev = true →
    ∃ b0 b1 r1, wireBytes params ev = [b0, b1] ∧ wireReceived x y ev = [x, r1] ∧ (∀ a v, ev = .rd a v → r1 = v) ∧
      wireActions params x y ev = [.chipSelect false] ++
        List.zipWith .clock (bitsMsbFirst b0 ++ bitsMsbFirst b1) (bitsMsbFirst x ++ bitsMsbFirst r1) ++ [.chipSelect true] ∧
      (wireActions params x y ev).length = 18

/-! ### The step. -/

/-- A step runs the instruction that stands in the request port, emptied by being read, in any state; without one, a step takes a
raised `START` while `BUSY = 0`: `SEQ` at the first step of the operation `OP` names (R28, R101). That operation then runs by the
steps of R10, which `StepsRunTheOperation` says. The request port is the model's own (log entry 7), and that its word runs whole
and whatever `BUSY` and `START` are is the model's choice (log entries 9 and 13). -/
def Obligations.StepRunsTheInstruction : Prop :=
  (∀ (s : State) (r : Request) (i : Instr), s.request = some r → decode r.format r.bytes = .ok i →
    step s = exec i { s with request := none }) ∧
  (∀ s : State, s.request = none → s.ctl.start = true → s.ctl.busy = false →
    ∃ q : Seq, q.operation = some (decodeOp s.opr.op) ∧ q.stepNumber = 1 ∧
      step s = .next { s with ctl := { start := false, busy := true, done := false, seq := q } })

/-- A word of the opcode table, placed by `withFetchWord`, is run by the very next step, in the state it was placed in. How words
are placed is the model's choice (log entries 7 and 8), and so is that a placed host operation runs whole in one step (log entry
9). -/
def Obligations.PlacedWordRunsNext : Prop :=
  ∀ (s : State) (nbits w : Nat) (i : Instr), decodeTableWord nbits w = some i →
    step (s.withFetchWord nbits w) = exec i { s with request := none }

/-- Without `START` the engine waits in `SEQ = Idle`; with an operation in progress it moves by one position (R10, R320, R340). -/
def Obligations.StepWithoutStart : Prop :=
  ∀ s : State, s.request = none → s.ctl.start = false →
    (s.ctl.seq = .idle → step s = .next s) ∧ (s.ctl.seq ≠ .idle → step s = .next (tick params s))

/-- R302 (the spec's decision D35): an operation started, `START` raised, or an operand register written while `BUSY = 1` is
`fault Overlap`. -/
def Obligations.OverlapIsAFault : Prop :=
  ∀ s : State, s.ctl.busy = true →
    (∀ i : Instr, i.format = .hop → exec i s = .fault .overlap) ∧
    (s.request = none → s.ctl.start = true → step s = .fault .overlap) ∧
    hostStart s = .fault .overlap ∧ (∀ w : HostWrite, hostWrite w s = .fault .overlap)

/-- The host's actions while `BUSY = 0`: a write changes the operand register it names and nothing else, `START` is raised, and
the next step after a submitted program line takes its `START`, with `SEQ` at the first step of its operation (R21, R22, R26, R28,
R121). That the line's writes stand submitted in one state is the model's choice (log entry 7). What a line writes is said by
`LinesRunTheirOperation`. -/
def Obligations.HostActions : Prop :=
  ∀ s : State, s.ctl.busy = false →
    (∀ v, hostWrite (.op v) s = .next { s with opr := { s.opr with op := v } }) ∧
    (∀ v, hostWrite (.a v) s = .next { s with opr := { s.opr with a := v } }) ∧
    (∀ v, hostWrite (.d v) s = .next { s with opr := { s.opr with d := v } }) ∧
    (∀ v, hostWrite (.t v) s = .next { s with opr := { s.opr with t := v } }) ∧
    (∀ v, hostWrite (.len v) s = .next { s with opr := { s.opr with len := v } }) ∧
    (∀ (k : Fin 64) (v : Byte), ∃ t, hostWrite (.buf k v) s = .next t ∧ t.opr.buf = s.opr.buf.set k v ∧
      t = { s with opr := { s.opr with buf := t.opr.buf } }) ∧
    hostStart s = .next { s with ctl := { s.ctl with start := true } } ∧
    (∀ l : Line, s.request = none → step (l.submit s) = .next (launch (l.submit s)) ∧
      (launch (l.submit s)).ctl.seq.operation = some (decodeOp l.op))

/-- Each form of program line: the operand registers it writes (`BUF[i]` is byte `i` of a list, `LEN` the number of bytes), the
operation code it writes to `OP`, `START` raised, nothing else; and the next step takes that `START`, with `SEQ` at the first step
of the line's operation (R28, R102, R103, R121, the spec's decision D42), which then runs as `StepsRunTheOperation` says. That a
line's writes stand submitted in one state is the model's choice (log entry 7), and so is that a list of 65 to 127 bytes leaves
only its first 64 in `BUF` (log entry 22). -/
def Obligations.LinesRunTheirOperation : Prop :=
  ∀ s : State, s.ctl.busy = false →
    (∀ a, LineRuns (.readreg a) .readreg 0x0 { s.opr with a := a } s) ∧
    (∀ a v, LineRuns (.writereg a v) .writereg 0x1 { s.opr with a := a, d := v } s) ∧
    (∀ a m, LineRuns (.setbits a m) .setbits 0x2 { s.opr with a := a, d := m } s) ∧
    (∀ a m, LineRuns (.clrbits a m) .clrbits 0x3 { s.opr with a := a, d := m } s) ∧
    (∀ (bs : List Byte) (buf : Vector Byte 64) (len : BitVec 7), bs.length ≤ 127 → len.toNat = bs.length →
      (∀ k : Fin 64, buf[k] = bs.getD k s.opr.buf[k]) →
      LineRuns (.calccrc bs) .calccrc 0x4 { s.opr with buf := buf, len := len } s ∧
      ∀ c, LineRuns (.tocard c bs) .tocard 0x5 { s.opr with d := c, buf := buf, len := len } s) ∧
    (∀ m, LineRuns (.ispresent m) .ispresent 0x6 { s.opr with d := m } s) ∧
    (∀ n, LineRuns (.waitpresent n) .waitpresent 0x7 { s.opr with t := n } s) ∧
    (∀ n, LineRuns (.waitremoved n) .waitremoved 0x8 { s.opr with t := n } s) ∧
    LineRuns .readuid .readuid 0x9 s.opr s ∧
    (∀ (u0 u1 u2 u3 bcc : Byte) (buf : Vector Byte 64),
      (∀ k : Fin 64, buf[k] = [u0, u1, u2, u3, bcc].getD k s.opr.buf[k]) →
      LineRuns (.select u0 u1 u2 u3 bcc) .select 0xA { s.opr with buf := buf } s) ∧
    (∀ sak, LineRuns (.classify sak) .classify 0xB { s.opr with d := sak } s) ∧
    LineRuns .halt .halt 0xC s.opr s ∧
    (∀ h, LineRuns (.init h) .init 0xD { s.opr with d := h } s)

/-! ### Reset and invariants. -/

/-- R56 (the spec's decision D34): the reset values, and that the reset does not reach the PCD. Nothing is said of the hidden
registers, whose reset values are the model's choice (log entry 1). The last clause, that the answers to come, the number of reads
and the trace are kept, is about fields of the model's own and its choice (log entry 12). -/
def Obligations.ResetValues : Prop :=
  ∀ s t : State, t = State.reset ∨ t = hostReset s →
    t.ctl.seq = .idle ∧ t.ctl.start = false ∧ t.ctl.busy = false ∧ t.ctl.done = false ∧
    t.opr.op = 0 ∧ t.opr.a = 0 ∧ t.opr.d = 0 ∧ t.opr.t = 0 ∧ t.opr.len = 0 ∧ (∀ k : Fin 64, t.opr.buf[k] = 0) ∧
    t.res.status = .error ∧ t.res.val = 0 ∧ t.res.flag = false ∧ t.res.bits = 0 ∧ t.res.rlen = 0 ∧
    t.res.crc0 = 0 ∧ t.res.crc1 = 0 ∧ (∀ k : Fin 16, t.res.rbuf[k] = 0) ∧ t.res.ctype = .unknown ∧ t.bus.cs = false ∧
    (t = hostReset s → t.bus.answers = s.bus.answers ∧ t.bus.reads = s.bus.reads ∧ t.bus.trace = s.bus.trace)

/-- The invariant holds at reset. -/
def Obligations.InvariantAtReset : Prop :=
  Inv State.reset

/-- Every step keeps the invariant: the handshake agrees with the sequencer (R59), the counts stay in range (R23, R31),
chip-select is released (R61). -/
def Obligations.StepKeepsInvariant : Prop :=
  ∀ s t : State, Inv s → step s = .next t → Inv t

/-- A step only adds to the trace, and never writes an operand register (R15, R22). -/
def Obligations.StepExtendsTheTrace : Prop :=
  ∀ s t : State, step s = .next t → (∃ evs, t.bus.trace = s.bus.trace ++ evs) ∧ t.opr = s.opr

/-! ### The sequencer. -/

/-- R28: `START` puts `SEQ` at the first step of the operation `OP` names, sets `BUSY`, clears `DONE` and `START`, and changes
nothing else. -/
def Obligations.LaunchTakesStart : Prop :=
  ∀ s : State,
    launch s = { s with ctl := { start := false, busy := true, done := false, seq := firstPosition s.opr.op } } ∧
    (firstPosition s.opr.op).operation = some (decodeOp s.opr.op) ∧ (firstPosition s.opr.op).stepNumber = 1

/-- The sequencer, position by position, reaches exactly the state in which the operation's meaning ends, and is busy until then
(R10, R28, R340). -/
def Obligations.TicksReachTheMeaning : Prop :=
  ∀ s : State, s.ctl.busy = false →
    ∃ n, exec (decodeOp s.opr.op) s = .next (ticks params n (launch s)) ∧
      ∀ m, m < n → (ticks params m (launch s)).ctl.busy = true

/-- R10, R28 (the spec's decision D2): a step of the engine leaves the bus as it is, or is one bus transaction or one delay
request, so at most one event. It is the machine's step wherever no word stands in the request port; raised `START` it takes
without an event, or it is `fault Overlap` while an operation runs (R302). -/
def Obligations.EngineStepIsOneTransaction : Prop :=
  (∀ s t : State, engineStep params s = .next t →
    t.opr = s.opr ∧ t.request = s.request ∧ (t.bus = s.bus ∨ ∃ ev, t.bus.trace = s.bus.trace ++ [ev])) ∧
  (∀ s : State, s.request = none → step s = engineStep params s) ∧
  ∀ s : State, s.ctl.start = true →
    (s.ctl.busy = false → engineStep params s = .next (launch s)) ∧ (s.ctl.busy = true → engineStep params s = .fault .overlap)

/-- An operation the host starts is taken by the next step and runs by steps of R10, which end exactly where the operation's
meaning ends, whatever the PCD answers; until then the engine is busy (R10, R28, R340). -/
def Obligations.StepsRunTheOperation : Prop :=
  ∀ s : State, s.request = none → s.ctl.busy = false →
    ∃ t, hostStart s = .next t ∧ step t = .next (launch s) ∧
      ∃ n, runSteps (n + 1) t = exec (decodeOp s.opr.op) s ∧
        ∀ m, m < n → ∃ u, runSteps (m + 1) t = .next u ∧ u.ctl.busy = true

/-! ### All host operations. -/

/-- R24 (the spec's decisions D39, D43): every host operation started while `BUSY = 0` completes, whatever the PCD answers; it
writes the result registers its row of the matrix marks and no other, and no operand register; the handshake is as R28 leaves it.
-/
def Obligations.HostOperationsWriteMatrix : Prop :=
  ∀ (i : Instr) (s : State), i.format = .hop → s.ctl.busy = false →
    ∃ t, exec i s = .next t ∧ MatrixRow i s t ∧ t.opr = s.opr ∧ t.ctl = endedControl ∧ t.request = s.request ∧
      ∃ evs, t.bus.trace = s.bus.trace ++ evs

/-- No instruction makes more bus transactions or delays than its ceiling, whatever the PCD answers. The ceilings of the host
operations are the columns of R347, which the spec derives from R169 and R198. R347 has no row for the bus words, the PCD commands
and the card frames: their ceilings follow the model's reading of those rows (log entries 10 and 11), one transaction for a bus
word or a command, and for a frame the executor's ceiling at its length, with the framing write before the request and the
anti-collision frame. -/
def Obligations.CostCeilings : Prop :=
  ∀ (i : Instr) (s t : State), exec i s = .next t →
    transactions (added s t) ≤ (costCeiling params s.opr i).1 ∧ delays (added s t) ≤ (costCeiling params s.opr i).2

/-- R32 (which the spec derives from the step lists): what an instruction does outside the hidden registers does not depend on
what they held before it. -/
def Obligations.HiddenRegistersDoNotMatter : Prop :=
  ∀ (i : Instr) (s : State) (h : Hidden), AgreeButHidden (exec i s) (exec i { s with hid := h })

/-! ### Lower-layer words. -/

/-- BUSRD and BUSWR: one transaction, nothing else (R62, R63, R105). -/
def Obligations.BusWordsTransact : Prop :=
  ∀ (a : RegAddr) (v : Byte) (s : State),
    exec (.busrd a) s = .next { s with bus := afterRead a s.bus } ∧
    exec (.buswr a v) s = .next { s with bus := afterWrite a v s.bus }

/-- The PCD commands: the byte of the row written to `COMMAND`, nothing else (R109, R110). -/
def Obligations.PcdCommandsAreWritten : Prop :=
  ∀ (c : Byte) (s : State),
    exec .cmdIdle s = .next { s with bus := afterWrite 0x01 0x00 s.bus } ∧
    exec .cmdCalccrc s = .next { s with bus := afterWrite 0x01 0x03 s.bus } ∧
    exec .cmdTransceive s = .next { s with bus := afterWrite 0x01 0x0C s.bus } ∧
    exec .cmdAuthent s = .next { s with bus := afterWrite 0x01 0x0E s.bus } ∧
    exec .cmdSoftreset s = .next { s with bus := afterWrite 0x01 0x0F s.bus } ∧
    exec (.cmdOther c) s = .next { s with bus := afterWrite 0x01 c s.bus }

/-- The four card frames are built, written to the FIFO after the flush and sent by Transceive with the start-send bit set after
it (R181 steps 2 to 5, R187), the request as a short frame and the anti-collision frame in full-byte mode, and no result register
is written. That a frame's row stands for building and sending it is the model's choice (log entry 10). -/
def Obligations.CardFramesAreSent : Prop :=
  ∀ (s : State) (m u0 u1 u2 u3 u4 c0 c1 : Byte),
    (∃ t, exec (.piccRequest m) s = .next t ∧ FrameSent [Event.wr 0x0D 0x07] [m] s t) ∧
    (∃ t, exec .piccAnticollision s = .next t ∧ FrameSent [Event.wr 0x0D 0x00] [0x93, 0x20] s t) ∧
    (∃ t, exec (.piccSelect u0 u1 u2 u3 u4 c0 c1) s = .next t ∧ FrameSent [] [0x93, 0x70, u0, u1, u2, u3, u4, c0, c1] s t) ∧
    (∃ t, exec (.piccHalt c0 c1) s = .next t ∧ FrameSent [] [0x50, 0x00, c0, c1] s t)

/-! ### Register access. -/

/-- READREG: `VAL` is the byte one register read returned, and nothing else changes but the handshake and the bus (R140). -/
def Obligations.ReadregResult : Prop :=
  ∀ s : State, s.ctl.busy = false →
    exec .readreg s = .next { s with
      res := { s.res with val := nextAnswer s.bus }, ctl := endedControl, bus := afterRead (s.opr.a.setWidth 6) s.bus }

/-- WRITEREG: one register write, and nothing else changes but the handshake and the bus (R141). -/
def Obligations.WriteregResult : Prop :=
  ∀ s : State, s.ctl.busy = false →
    exec .writereg s = .next { s with ctl := endedControl, bus := afterWrite (s.opr.a.setWidth 6) s.opr.d s.bus }

/-- R144: `SetBits(a, m)` reads the byte into `TMP` and writes it back with the mask's bits set, with nothing between. SETBITS is
that sequence over `A` and `D`; only the hidden `TMP`, the handshake and the bus change (R146). -/
def Obligations.SetbitsResult : Prop :=
  (∀ (a m t : Byte) (s : State), t = nextAnswer s.bus →
    (setBits params a m s).hid = { s.hid with tmp := t } ∧
    (setBits params a m s).bus.trace = s.bus.trace ++ [Event.rd (a.setWidth 6) t, Event.wr (a.setWidth 6) (t ||| m)]) ∧
  ∀ s : State, s.ctl.busy = false →
    exec .setbits s = .next { s with
      hid := { s.hid with tmp := nextAnswer s.bus }, ctl := endedControl,
      bus := afterWrite (s.opr.a.setWidth 6) (nextAnswer s.bus ||| s.opr.d) (afterRead (s.opr.a.setWidth 6) s.bus) }

/-- R145: `ClearBits(a, m)` reads the byte into `TMP` and writes it back with the mask's bits cleared, with nothing between.
CLRBITS is that sequence over `A` and `D`; only the hidden `TMP`, the handshake and the bus change (R147). -/
def Obligations.ClrbitsResult : Prop :=
  (∀ (a m t : Byte) (s : State), t = nextAnswer s.bus →
    (clearBits params a m s).hid = { s.hid with tmp := t } ∧
    (clearBits params a m s).bus.trace = s.bus.trace ++ [Event.rd (a.setWidth 6) t, Event.wr (a.setWidth 6) (t &&& ~~~m)]) ∧
  ∀ s : State, s.ctl.busy = false →
    exec .clrbits s = .next { s with
      hid := { s.hid with tmp := nextAnswer s.bus }, ctl := endedControl,
      bus := afterWrite (s.opr.a.setWidth 6) (nextAnswer s.bus &&& ~~~s.opr.d) (afterRead (s.opr.a.setWidth 6) s.bus) }

/-- R118 (the spec's decisions D36, D37): a reserved `OP`, and CALCCRC or TOCARD with `LEN` above 64, make no bus transaction and
no delay, write `STATUS <- Error` and nothing else, and end. -/
def Obligations.RefusedOperations : Prop :=
  ∀ s : State, s.ctl.busy = false →
    exec .reservedE s = .next { s with res := { s.res with status := .error }, ctl := endedControl } ∧
    exec .reservedF s = .next { s with res := { s.res with status := .error }, ctl := endedControl } ∧
    (64 < s.opr.len.toNat →
      exec .calccrc s = .next { s with res := { s.res with status := .error }, ctl := endedControl } ∧
      exec .tocard s = .next { s with res := { s.res with status := .error }, ctl := endedControl })

/-! ### The CRC coprocessor. -/

/-- CALCCRC with the done flag seen within 255 polls: the exact transactions of R161 and the two result bytes in `CRC0` and `CRC1`
(R160, R162, R164). -/
def Obligations.CalccrcResult : Prop :=
  ∀ (s : State) (f l : Byte) (quiet : List Byte) (d lo mid : Byte) (rest : List Byte),
    s.ctl.busy = false → s.opr.len.toNat ≤ 64 →
    quiet.length ≤ 254 → (∀ b ∈ quiet, b &&& 0x04 = 0) → d &&& 0x04 ≠ 0 →
    s.bus.answers = [f, l] ++ quiet ++ [d, lo, mid] ++ rest →
    ∃ t, exec .calccrc s = .next t ∧ t.res = { s.res with crc0 := lo, crc1 := mid } ∧
      t.opr = s.opr ∧ t.ctl = endedControl ∧ t.request = s.request ∧ t.bus.answers = rest ∧
      t.bus.trace = s.bus.trace ++ crcOpening f l (firstBytes s.opr.buf s.opr.len.toNat) ++
        (quiet ++ [d]).map (Event.rd 0x05) ++ [Event.rd 0x22 lo, Event.rd 0x21 mid]

/-- CALCCRC with the done flag seen on none of 255 polls: the two bytes then read are delivered as if valid, and no status tells
(R162, R163). -/
def Obligations.CalccrcTimeoutIsSilent : Prop :=
  ∀ (s : State) (f l : Byte) (quiet : List Byte) (lo mid : Byte) (rest : List Byte),
    s.ctl.busy = false → s.opr.len.toNat ≤ 64 →
    quiet.length = 255 → (∀ b ∈ quiet, b &&& 0x04 = 0) →
    s.bus.answers = [f, l] ++ quiet ++ [lo, mid] ++ rest →
    ∃ t, exec .calccrc s = .next t ∧ t.res = { s.res with crc0 := lo, crc1 := mid } ∧
      t.opr = s.opr ∧ t.ctl = endedControl ∧ t.request = s.request ∧ t.bus.answers = rest ∧
      t.bus.trace = s.bus.trace ++ crcOpening f l (firstBytes s.opr.buf s.opr.len.toNat) ++
        quiet.map (Event.rd 0x05) ++ [Event.rd 0x22 lo, Event.rd 0x21 mid]

/-- R164: `C0` is the byte read first, from 0x22, and `C1` the byte read second, from 0x21, and in this order they are appended to
a frame: the select frame after seven bytes, the halt frame after two. Which address is read first is the spec's decision D17 (log
entry 4). -/
def Obligations.CrcResultOrder : Prop :=
  (∀ (k : Nat) (s : State), ∃ before, (crc params k s).bus.trace =
    before ++ [Event.rd 0x22 (crc params k s).hid.c0, Event.rd 0x21 (crc params k s).hid.c1]) ∧
  (∀ (c0 c1 : Byte) (s : State), byteAt (appendCrc 7 c0 c1 s).hid.frame 7 = c0 ∧ byteAt (appendCrc 7 c0 c1 s).hid.frame 8 = c1 ∧
    byteAt (appendCrc 2 c0 c1 s).hid.frame 2 = c0 ∧ byteAt (appendCrc 2 c0 c1 s).hid.frame 3 = c1)

/-- Whatever the PCD answers, its FIFO holds exactly the operand bytes when CalcCRC or TOCARD's command is written, under the
contract of R80 for the engine's own events (R79, R185). -/
def Obligations.FifoHoldsTheOperandAtTheCommand : Prop :=
  ∀ (s : State) (q : List Byte), s.ctl.busy = false → s.opr.len.toNat ≤ 64 →
    (∃ t pre post, exec .calccrc s = .next t ∧ t.bus.trace = s.bus.trace ++ pre ++ [Event.wr 0x01 0x03] ++ post ∧
      fifoAfter params q pre = firstBytes s.opr.buf s.opr.len.toNat) ∧
    (∃ t pre post, exec .tocard s = .next t ∧ t.bus.trace = s.bus.trace ++ pre ++ [Event.wr 0x01 s.opr.d] ++ post ∧
      fifoAfter params q pre = firstBytes s.opr.buf s.opr.len.toNat)

/-- R168 (which the spec derives from R161): with a PCD that raises the flag within 255 polls and presents `CRC_A` of the content
its FIFO has when the engine's own events bring CalcCRC to it (R82), CALCCRC is the function `CRC_A` of the operand bytes, for
every value of that parameter (R8). -/
def Obligations.CalccrcUnderTheContract : Prop :=
  ∀ (o : Config.Open) (s : State) (q : List Byte) (f l : Byte) (quiet : List Byte) (d : Byte) (c : Byte × Byte) (rest : List Byte),
    s.ctl.busy = false → s.opr.len.toNat ≤ 64 →
    quiet.length ≤ 254 → (∀ b ∈ quiet, b &&& 0x04 = 0) → d &&& 0x04 ≠ 0 →
    s.bus.answers = [f, l] ++ quiet ++ [d, c.1, c.2] ++ rest →
    ∃ t pre post, exec .calccrc s = .next t ∧ t.bus.trace = s.bus.trace ++ pre ++ [Event.wr 0x01 0x03] ++ post ∧
      (c = crcPresented (paramsOf o) q pre → (t.res.crc0, t.res.crc1) = o.crcA (firstBytes s.opr.buf s.opr.len.toNat))

/-- The engine never has more than 64 bytes of its own in the PCD FIFO: at every point of every operation that builds or sends a
frame, if the FIFO held at most 64 bytes before it (R79, R80, R184). -/
def Obligations.FifoNeverOverfilled : Prop :=
  ∀ (i : Instr) (s t : State) (q : List Byte) (pre post : List Event),
    i ∈ [Instr.calccrc, .tocard, .ispresent, .waitpresent, .waitremoved, .readuid, .select, .classify, .halt] →
    exec i s = .next t → q.length ≤ 64 → t.bus.trace = s.bus.trace ++ pre ++ post →
    (fifoAfter params q pre).length ≤ 64

/-! ### The command executor. -/

/-- R183 (kinds by the whole byte and the enable bit are the spec's decisions D24, D10): the masks by command kind, found by the
whole byte, and the byte written to the enable register: 0x92, 0xF7 or 0x80. -/
def Obligations.CommandMasks : Prop :=
  ∀ (cmd : Byte) (s : State),
    commandMasks cmd = (if cmd = 0x0E then (0x12, 0x10) else if cmd = 0x0C then (0x77, 0x30) else (0x00, 0x00)) ∧
    (execEnable params (execSetup cmd s)).bus.trace =
      s.bus.trace ++ [Event.wr 0x02 (if cmd = 0x0E then 0x92 else if cmd = 0x0C then 0xF7 else 0x80)]

/-- R190 (the wrapping case is the spec's decision D22): the bit count, modulo 2^16, with its one wrapping case. -/
def Obligations.BitCountFormula : Prop :=
  ∀ (l : Byte) (lb : BitVec 3),
    (lb = 0 → (bitCount l lb).toNat = l.toNat * 8) ∧
    (lb ≠ 0 → ((bitCount l lb).toNat : Int) = (((l.toNat : Int) - 1) * 8 + lb.toNat) % 65536) ∧
    (lb ≠ 0 → l = 0 → (bitCount l lb).toNat = 0xFFF8 + lb.toNat)

/-- R191: the drain count by the level `L` read, and after it that many reads of 0x09 into the front of `XBUF`, in step 8 of a
Transceive without a masked error bit, whatever the last poll `N` shows (so on `NoTag` as on `Ok`). The order of the reads before
the drain, error register, level, control (R181, R200), is the spec's decision D21. -/
def Obligations.DrainCountClamp : Prop :=
  (∀ l : Byte, (l = 0 → drainCount l = 1) ∧ (1 ≤ l.toNat ∧ l.toNat ≤ 16 → (drainCount l).toNat = l.toNat) ∧
    (16 < l.toNat → drainCount l = 16)) ∧
  ∀ (s : State) (e l ct : Byte) (data rest : List Byte),
    s.hid.cmdr = 0x0C → e &&& 0x1B = 0 → data.length = (drainCount l).toNat →
    s.bus.answers = [e, l, ct] ++ data ++ rest →
    (execResult params s).hid.l = l ∧ (execResult params s).hid.xlen = drainCount l ∧
    firstBytes (execResult params s).hid.xbuf data.length = data ∧
    (execResult params s).bus.trace = s.bus.trace ++ [Event.rd 0x06 e, Event.rd 0x0A l, Event.rd 0x0C ct] ++ data.map (Event.rd 0x09)

/-- TOCARD with Transceive, an event within 1999 polls and no masked error bit: `NoTag` if the last poll shows the timer bit, else
`Ok`; the counts of R190 and R191, the drained bytes with zeros after them, and the exact transactions and delays (R180, R181). -/
def Obligations.TocardTransceiveResult : Prop :=
  ∀ (s : State) (f l b1 : Byte) (quiet : List Byte) (n b2 e lv ct : Byte) (data rest : List Byte),
    s.ctl.busy = false → s.opr.len.toNat ≤ 64 → s.opr.d = 0x0C →
    quiet.length ≤ 1998 → (∀ b ∈ quiet, b &&& 0x31 = 0) → n &&& 0x31 ≠ 0 → e &&& 0x1B = 0 →
    data.length = (drainCount lv).toNat →
    s.bus.answers = [f, l, b1] ++ quiet ++ [n, b2, e, lv, ct] ++ data ++ rest →
    ∃ t, exec .tocard s = .next t ∧
      t.res = { s.res with
        status := if n &&& 0x01 = 0 then .ok else .noTag, bits := bitCount lv (ct.extractLsb' 0 3), rlen := drainCount lv,
        rbuf := receiveBuffer data } ∧
      t.opr = s.opr ∧ t.ctl = endedControl ∧ t.request = s.request ∧ t.bus.answers = rest ∧
      t.bus.trace = s.bus.trace ++
        execOpening 0xF7 f l (firstBytes s.opr.buf s.opr.len.toNat) 0x0C ++ startSend b1 ++ polls 0x04 10 quiet ++
        [Event.rd 0x04 n] ++ stopSend b2 ++ [Event.rd 0x06 e, Event.rd 0x0A lv, Event.rd 0x0C ct] ++ data.map (Event.rd 0x09)

/-- TOCARD with Transceive, an event within 1999 polls and a masked error bit: `Error`, nothing drained, `BITS`, `RLEN` and `RBUF`
zero (R189, R199). -/
def Obligations.TocardErrorBitResult : Prop :=
  ∀ (s : State) (f l b1 : Byte) (quiet : List Byte) (n b2 e : Byte) (rest : List Byte),
    s.ctl.busy = false → s.opr.len.toNat ≤ 64 → s.opr.d = 0x0C →
    quiet.length ≤ 1998 → (∀ b ∈ quiet, b &&& 0x31 = 0) → n &&& 0x31 ≠ 0 → e &&& 0x1B ≠ 0 →
    s.bus.answers = [f, l, b1] ++ quiet ++ [n, b2, e] ++ rest →
    ∃ t, exec .tocard s = .next t ∧
      t.res = { s.res with status := .error, bits := 0, rlen := 0, rbuf := receiveBuffer [] } ∧
      t.opr = s.opr ∧ t.ctl = endedControl ∧ t.request = s.request ∧ t.bus.answers = rest ∧
      t.bus.trace = s.bus.trace ++
        execOpening 0xF7 f l (firstBytes s.opr.buf s.opr.len.toNat) 0x0C ++ startSend b1 ++ polls 0x04 10 quiet ++
        [Event.rd 0x04 n] ++ stopSend b2 ++ [Event.rd 0x06 e]

/-- TOCARD of any command with no event on the first 1999 polls (the timer bit or a bit of the command's done group): `Error`
whatever the 2000th poll shows, `BITS`, `RLEN` and `RBUF` zero, the error register not read and the stop-send the last bus
activity; the start-send stands for Transceive only (R183, R187, R188, R195, R199). -/
def Obligations.TocardTimeoutResult : Prop :=
  ∀ (s : State) (f l : Byte) (starts quiet : List Byte) (n b2 : Byte) (rest : List Byte) (events enable : Byte),
    s.ctl.busy = false → s.opr.len.toNat ≤ 64 →
    events = (if s.opr.d = 0x0C then 0x31 else if s.opr.d = 0x0E then 0x11 else 0x01) →
    enable = (if s.opr.d = 0x0C then 0xF7 else if s.opr.d = 0x0E then 0x92 else 0x80) →
    starts.length = (if s.opr.d = 0x0C then 1 else 0) →
    quiet.length = 1999 → (∀ b ∈ quiet, b &&& events = 0) →
    s.bus.answers = [f, l] ++ starts ++ quiet ++ [n, b2] ++ rest →
    ∃ t, exec .tocard s = .next t ∧
      t.res = { s.res with status := .error, bits := 0, rlen := 0, rbuf := receiveBuffer [] } ∧
      t.opr = s.opr ∧ t.ctl = endedControl ∧ t.request = s.request ∧ t.bus.answers = rest ∧
      t.bus.trace = s.bus.trace ++
        execOpening enable f l (firstBytes s.opr.buf s.opr.len.toNat) s.opr.d ++ starts.flatMap startSend ++ polls 0x04 10 quiet ++
        [Event.rd 0x04 n] ++ stopSend b2

/-- TOCARD with another command than Transceive and an event within 1999 polls (the timer bit, and for Authent its done bit): no
start-send, the error register read, `Ok` or `Error` by its masked bits, nothing drained (R183, R187, R192, R199). -/
def Obligations.TocardOtherCommandResult : Prop :=
  ∀ (s : State) (f l : Byte) (quiet : List Byte) (n b2 e : Byte) (rest : List Byte) (events enable : Byte),
    s.ctl.busy = false → s.opr.len.toNat ≤ 64 → s.opr.d ≠ 0x0C →
    events = (if s.opr.d = 0x0E then 0x11 else 0x01) → enable = (if s.opr.d = 0x0E then 0x92 else 0x80) →
    quiet.length ≤ 1998 → (∀ b ∈ quiet, b &&& events = 0) → n &&& events ≠ 0 →
    s.bus.answers = [f, l] ++ quiet ++ [n, b2, e] ++ rest →
    ∃ t, exec .tocard s = .next t ∧
      t.res = { s.res with
        status := if e &&& 0x1B = 0 then .ok else .error, bits := 0, rlen := 0, rbuf := receiveBuffer [] } ∧
      t.opr = s.opr ∧ t.ctl = endedControl ∧ t.request = s.request ∧ t.bus.answers = rest ∧
      t.bus.trace = s.bus.trace ++
        execOpening enable f l (firstBytes s.opr.buf s.opr.len.toNat) s.opr.d ++ polls 0x04 10 quiet ++
        [Event.rd 0x04 n] ++ stopSend b2 ++ [Event.rd 0x06 e]

/-- R292, its last sentences: `NoTag` comes only from TOCARD with Transceive and from READUID, among the operations that write
`STATUS`. -/
def Obligations.NoTagOnlyFromTransceive : Prop :=
  ∀ (i : Instr) (s t : State), i.format = .hop → exec i s = .next t → s.res.status ≠ .noTag → t.res.status = .noTag →
    i = .readuid ∨ (i = .tocard ∧ s.opr.d = 0x0C)

/-! ### Card presence. -/

/-- ISPRESENT is WRITEREG of 0x07 to the bit-framing register and then TOCARD of a Transceive over the one byte of the request
mode: the same bus, the same `BITS`, `RLEN` and `RBUF`; its status is `Ok` exactly when TOCARD's is and 16 bits were received,
else `Error` (R213, R214, R215). -/
def Obligations.IspresentIsWriteregThenTocard : Prop :=
  ∀ s : State, s.ctl.busy = false →
    ∃ t u v, exec .ispresent s = .next t ∧
      exec .writereg { s with opr := { s.opr with a := 0x0D, d := 0x07 } } = .next u ∧
      exec .tocard { u with opr := { u.opr with d := 0x0C, buf := storeBytes u.opr.buf [s.opr.d], len := 1 } } = .next v ∧
      t.bus = v.bus ∧ t.opr = s.opr ∧ t.ctl = endedControl ∧
      t.res = { s.res with
        status := if v.res.status = .ok ∧ v.res.bits = 16 then .ok else .error,
        bits := v.res.bits, rlen := v.res.rlen, rbuf := v.res.rbuf }

/-- WAITPRESENT with answers enough, for every value of the open parameters: with `k` the number of answers before the first
match, `T` at most: below `T` the operation ends found after `k` turns and the clear of the flags; else it ends not found after
`T` turns (R218, R220). For the machine's own open parameters it is `exec`. -/
def Obligations.WaitpresentResult : Prop :=
  ∀ (o : Config.Open) (s : State) (misses : List Byte) (n w : Byte),
    s.ctl.busy = false → s.opr.t.toNat + 1 ≤ s.bus.answers.length →
    misses = (s.bus.answers.take s.opr.t.toNat).takeWhile (fun b => !o.presentMatch b) →
    n = s.bus.answers.getD misses.length 0 → w = s.bus.answers.getD (misses.length + 1) 0 →
    ∃ t, hostOperation .waitpresentStart (bodyWaitpresent (paramsOf o)) s = .next t ∧
      (o = machineOpen → exec .waitpresent s = .next t) ∧
      t.opr = s.opr ∧ t.ctl = endedControl ∧ t.request = s.request ∧
      t.res = { s.res with flag := decide (misses.length < s.opr.t.toNat) } ∧
      t.bus.trace = s.bus.trace ++
        misses.flatMap (fun b => [Event.wr 0x0D o.presentBitframing, Event.rd 0x04 b, Event.delay 5]) ++
        (if misses.length < s.opr.t.toNat
          then [Event.wr 0x0D o.presentBitframing, Event.rd 0x04 n, Event.rd 0x04 w, Event.wr 0x04 (w &&& 0x7F)]
          else [])

/-- WAITREMOVED with answers enough, for every value of the open parameters: one write of 0x00 to the bit-framing register, then
polls 1 ms apart until the first match or `T` misses; the flags are not cleared (R224, R225, R226). For the machine's own open
parameters it is `exec`. -/
def Obligations.WaitremovedResult : Prop :=
  ∀ (o : Config.Open) (s : State) (misses : List Byte) (n : Byte),
    s.ctl.busy = false → s.opr.t.toNat ≤ s.bus.answers.length →
    misses = (s.bus.answers.take s.opr.t.toNat).takeWhile (fun b => !o.removedMatch b) →
    n = s.bus.answers.getD misses.length 0 →
    ∃ t, hostOperation .waitremovedFraming (bodyWaitremoved (paramsOf o)) s = .next t ∧
      (o = machineOpen → exec .waitremoved s = .next t) ∧
      t.opr = s.opr ∧ t.ctl = endedControl ∧ t.request = s.request ∧
      t.res = { s.res with flag := decide (misses.length < s.opr.t.toNat) } ∧
      t.bus.trace = s.bus.trace ++ [Event.wr 0x0D 0x00] ++ polls 0x04 1 misses ++
        (if misses.length < s.opr.t.toNat then [Event.rd 0x04 n] else [])

/-! ### Anti-collision and select. -/

/-- READUID is WRITEREG of 0x00 to the bit-framing register and then TOCARD of a Transceive over 0x93 0x20: the same bus, `BITS`,
`RLEN` and `RBUF`; an `Ok` whose checksum does not match becomes `Error`, any other status passes unchanged (R241, R242, R243). -/
def Obligations.ReaduidIsWriteregThenTocard : Prop :=
  ∀ s : State, s.ctl.busy = false →
    ∃ t u v, exec .readuid s = .next t ∧
      exec .writereg { s with opr := { s.opr with a := 0x0D, d := 0x00 } } = .next u ∧
      exec .tocard { u with opr := { u.opr with d := 0x0C, buf := storeBytes u.opr.buf [0x93, 0x20], len := 2 } } = .next v ∧
      t.bus = v.bus ∧ t.opr = s.opr ∧ t.ctl = endedControl ∧
      t.res = { s.res with
        status := if v.res.status = .ok ∧ v.res.rbuf[0] ^^^ v.res.rbuf[1] ^^^ v.res.rbuf[2] ^^^ v.res.rbuf[3] ≠ v.res.rbuf[4]
          then .error else v.res.status,
        bits := v.res.bits, rlen := v.res.rlen, rbuf := v.res.rbuf }

/-- R242: the checksum test is made only on an executor's `Ok`, a mismatch makes it `Error`, READUID's status is the outcome of
that test, and flipping any one bit of any of the five bytes of a UID that passes makes it fail. -/
def Obligations.UidSingleBitFlipsFail : Prop :=
  (∀ x : Vector Byte 16, uidStatus .ok x = if x[4] = x[0] ^^^ x[1] ^^^ x[2] ^^^ x[3] then .ok else .error) ∧
  (∀ (st : Status) (x : Vector Byte 16), st ≠ .ok → uidStatus st x = st) ∧
  (∀ s : State, s.ctl.busy = false →
    ∃ t, exec .readuid s = .next t ∧ t.res.status = uidStatus t.hid.xst t.hid.xbuf ∧ t.res.rbuf = t.hid.xbuf) ∧
  (∀ (x : Vector Byte 16) (k : Fin 5) (j : Fin 8), uidStatus .ok x = .ok →
    uidStatus .ok (x.set k.val (x[k.val] ^^^ BitVec.twoPow 8 j.val)) = .error)

/-- SELECT is CALCCRC over the seven bytes 0x93 0x70 and `BUF[0..4]`, and then TOCARD of a Transceive over them and the two CRC
bytes: the same bus and the same CRC bytes; `VAL` is the first byte received if TOCARD's status is `Ok` and 24 bits were received,
else 0 (R246, R247). -/
def Obligations.SelectIsCalccrcThenTocard : Prop :=
  ∀ (s : State) (head : List Byte), s.ctl.busy = false → head = [0x93, 0x70] ++ firstBytes s.opr.buf 5 →
    ∃ t u v, exec .select s = .next t ∧
      exec .calccrc { s with opr := { s.opr with buf := storeBytes s.opr.buf head, len := 7 } } = .next u ∧
      exec .tocard { u with opr := { u.opr with
        d := 0x0C, buf := storeBytes u.opr.buf (head ++ [u.res.crc0, u.res.crc1]), len := 9 } } = .next v ∧
      t.bus = v.bus ∧ t.opr = s.opr ∧ t.ctl = endedControl ∧
      t.res = { s.res with
        val := if v.res.status = .ok ∧ v.res.bits = 24 then v.res.rbuf[0] else 0, crc0 := u.res.crc0, crc1 := u.res.crc1 }

/-! ### Classifier. -/

/-- R261, R262, R263: the cascade test, the direct-value table and the two overrides, each on any byte and any type set before it;
CLASSIFY applies them in this order from `Unknown` and changes nothing else but the handshake (R260). -/
def Obligations.ClassifierSteps : Prop :=
  (∀ (d : Byte) (t : CardType),
    classifyCascade d t = (if d &&& 0x04 ≠ 0 then .notComplete else t) ∧
    classifyTable 0x09 t = .mifareMini ∧ classifyTable 0x08 t = .mifare1K ∧ classifyTable 0x18 t = .mifare4K ∧
    classifyTable 0x00 t = .mifareUltralight ∧ classifyTable 0x10 t = .mifarePlus ∧ classifyTable 0x11 t = .mifarePlus ∧
    classifyTable 0x01 t = .tnp3xxx ∧ (d ∉ [0x09, 0x08, 0x18, 0x00, 0x10, 0x11, 0x01] → classifyTable d t = t) ∧
    (d &&& 0x40 ≠ 0 → classifyOverride d t = .iso18092) ∧
    (d &&& 0x40 = 0 → d &&& 0x20 ≠ 0 → classifyOverride d t = .iso14443_4) ∧
    (d &&& 0x40 = 0 → d &&& 0x20 = 0 → classifyOverride d t = t)) ∧
  ∀ (s : State) (d : Byte), s.ctl.busy = false → d = s.opr.d →
    exec .classify s = .next { s with
      ctl := endedControl, res := { s.res with ctype := classifyOverride d (classifyTable d (classifyCascade d .unknown)) } }

/-- R264 (which the spec derives from R261 to R263): the classifier by cases, and how many of the 256 inputs give each type. -/
def Obligations.ClassifierByCases : Prop :=
  (∀ s : State, s.ctl.busy = false →
    exec .classify s = .next { s with ctl := endedControl, res := { s.res with ctype := cardTypeByCases s.opr.d } }) ∧
  (∀ (c : CardType), ((List.range 256).countP fun k => classifySak (BitVec.ofNat 8 k) == c) =
    match c with
    | .iso18092 => 128
    | .iso14443_4 => 64
    | .notComplete => 32
    | .unknown => 25
    | .mifarePlus => 2
    | _ => 1)

/-! ### Halt and initialisation. -/

/-- HALT is CALCCRC over 0x50 0x00 and then TOCARD of a Transceive over them and the two CRC bytes: the same bus and the same CRC
bytes; the outcome is written nowhere (R271, R272). -/
def Obligations.HaltIsCalccrcThenTocard : Prop :=
  ∀ s : State, s.ctl.busy = false →
    ∃ t u v, exec .halt s = .next t ∧
      exec .calccrc { s with opr := { s.opr with buf := storeBytes s.opr.buf [0x50, 0x00], len := 2 } } = .next u ∧
      exec .tocard { u with opr := { u.opr with
        d := 0x0C, buf := storeBytes u.opr.buf [0x50, 0x00, u.res.crc0, u.res.crc1], len := 4 } } = .next v ∧
      t.bus = v.bus ∧ t.opr = s.opr ∧ t.ctl = endedControl ∧
      t.res = { s.res with crc0 := u.res.crc0, crc1 := u.res.crc1 }

/-- INIT, for every value of the open parameters: the soft reset, the steps of `INIT_SEQUENCE` of the hint, the version read;
`VAL` is the version byte and `STATUS` is `Ok` or `Error` by `VERSION_OK` (R276, R278). For the machine's own open parameters it
is `exec`. -/
def Obligations.InitResult : Prop :=
  ∀ (o : Config.Open) (s : State), s.ctl.busy = false →
    ∃ t v items,
      hostOperation .initReset (bodyInit (paramsOf o)) s = .next t ∧
      (o = machineOpen → exec .init s = .next t) ∧
      t.opr = s.opr ∧ t.ctl = endedControl ∧ t.request = s.request ∧
      t.res = { s.res with val := v, status := if o.versionOk v then .ok else .error } ∧
      InitTrace (o.initSequence s.opr.d) items ∧
      t.bus.trace = s.bus.trace ++ [Event.wr 0x01 0x0F] ++ items ++ [Event.rd 0x37 v]
end

