-- ==== Sys2Proof/Laws/State.lean ====
section
/-! SUPPORT. What each shared operation does to each group of registers: one lemma a group, for the simplifier. -/

namespace Sys2Proof.Machine

open Sys2Proof.Safety

/-! The bus after one transaction. -/

@[simp] theorem afterRead_cs (a : RegAddr) (b : Bus) : (afterRead a b).cs = false := rfl
@[simp] theorem afterRead_rx (a : RegAddr) (b : Bus) : (afterRead a b).rx = nextAnswer b := rfl
@[simp] theorem afterRead_answers (a : RegAddr) (b : Bus) : (afterRead a b).answers = b.answers.tail := rfl
@[simp] theorem afterRead_reads (a : RegAddr) (b : Bus) : (afterRead a b).reads = b.reads + 1 := rfl
@[simp] theorem afterRead_trace (a : RegAddr) (b : Bus) : (afterRead a b).trace = b.trace ++ [.rd a (nextAnswer b)] := rfl
@[simp] theorem afterWrite_cs (a : RegAddr) (v : Byte) (b : Bus) : (afterWrite a v b).cs = false := rfl
@[simp] theorem afterWrite_rx (a : RegAddr) (v : Byte) (b : Bus) : (afterWrite a v b).rx = b.rx := rfl
@[simp] theorem afterWrite_answers (a : RegAddr) (v : Byte) (b : Bus) : (afterWrite a v b).answers = b.answers := rfl
@[simp] theorem afterWrite_reads (a : RegAddr) (v : Byte) (b : Bus) : (afterWrite a v b).reads = b.reads := rfl
@[simp] theorem afterWrite_trace (a : RegAddr) (v : Byte) (b : Bus) :
    (afterWrite a v b).trace = b.trace ++ [.wr a v] := rfl

/-! `driveCs`. -/

@[simp] theorem driveCs_opr (on : Bool) (s : State) : (driveCs on s).opr = s.opr := by simp [driveCs]
@[simp] theorem driveCs_res (on : Bool) (s : State) : (driveCs on s).res = s.res := by simp [driveCs]
@[simp] theorem driveCs_hid (on : Bool) (s : State) : (driveCs on s).hid = s.hid := by simp [driveCs]
@[simp] theorem driveCs_ctl (on : Bool) (s : State) : (driveCs on s).ctl = s.ctl := by simp [driveCs]
@[simp] theorem driveCs_bus (on : Bool) (s : State) : (driveCs on s).bus = { s.bus with cs := on } := by simp [driveCs]
@[simp] theorem driveCs_request (on : Bool) (s : State) : (driveCs on s).request = s.request := by simp [driveCs]

/-! `record`. -/

@[simp] theorem record_opr (ev : Event) (s : State) : (record ev s).opr = s.opr := by simp [record]
@[simp] theorem record_res (ev : Event) (s : State) : (record ev s).res = s.res := by simp [record]
@[simp] theorem record_hid (ev : Event) (s : State) : (record ev s).hid = s.hid := by simp [record]
@[simp] theorem record_ctl (ev : Event) (s : State) : (record ev s).ctl = s.ctl := by simp [record]
@[simp] theorem record_bus (ev : Event) (s : State) : (record ev s).bus =
    { s.bus with trace := s.bus.trace ++ [ev] } := by simp [record]
@[simp] theorem record_request (ev : Event) (s : State) : (record ev s).request = s.request := by simp [record]

/-! `delay`. -/

@[simp] theorem delay_opr (ms : Nat) (s : State) : (delay ms s).opr = s.opr := by simp [delay]
@[simp] theorem delay_res (ms : Nat) (s : State) : (delay ms s).res = s.res := by simp [delay]
@[simp] theorem delay_hid (ms : Nat) (s : State) : (delay ms s).hid = s.hid := by simp [delay]
@[simp] theorem delay_ctl (ms : Nat) (s : State) : (delay ms s).ctl = s.ctl := by simp [delay]
@[simp] theorem delay_bus (ms : Nat) (s : State) : (delay ms s).bus =
    { s.bus with trace := s.bus.trace ++ [.delay ms] } := by simp [delay]
@[simp] theorem delay_request (ms : Nat) (s : State) : (delay ms s).request = s.request := by simp [delay]

/-- An exchange receives the byte whose bits are shifted in, whatever is sent (R60, R65). -/
@[simp] theorem exchangeByte_bitsMsbFirst (sent v : Byte) : exchangeByte sent (bitsMsbFirst v) = v := by
  apply BitVec.eq_of_getLsbD_eq
  intro i hi
  simp only [exchangeByte, bitsMsbFirst, show List.range 8 = [0, 1, 2, 3, 4, 5, 6, 7] from rfl, List.map, List.foldl, shiftBit]
  interval_cases i <;> simp

/-- The pulses of an exchange: the bits of the two bytes side by side, bit 7 first in both directions (R60, R65). -/
theorem exchangePulses_bitsMsbFirst (sent v : Byte) :
    exchangePulses sent (bitsMsbFirst v) = List.zipWith .clock (bitsMsbFirst sent) (bitsMsbFirst v) := by
  simp only [bitsMsbFirst, show List.range 8 = [0, 1, 2, 3, 4, 5, 6, 7] from rfl, List.map, exchangePulses, shiftBit, List.zipWith]
  simp [BitVec.msb_eq_getLsbD_last]

/-! `exchangeKept`. -/

@[simp] theorem exchangeKept_opr (p : Config.Params) (s : State) : (exchangeKept p s).opr = s.opr := by simp [exchangeKept]
@[simp] theorem exchangeKept_res (p : Config.Params) (s : State) : (exchangeKept p s).res = s.res := by simp [exchangeKept]
@[simp] theorem exchangeKept_hid (p : Config.Params) (s : State) : (exchangeKept p s).hid = s.hid := by simp [exchangeKept]
@[simp] theorem exchangeKept_ctl (p : Config.Params) (s : State) : (exchangeKept p s).ctl = s.ctl := by simp [exchangeKept]
@[simp] theorem exchangeKept_bus (p : Config.Params) (s : State) : (exchangeKept p s).bus =
    { s.bus with rx := nextAnswer s.bus, answers := s.bus.answers.tail, reads := s.bus.reads + 1 } := by simp [exchangeKept]
@[simp] theorem exchangeKept_request (p : Config.Params) (s : State) : (exchangeKept p s).request = s.request := by simp [exchangeKept]

/-! `busRead`. -/

@[simp] theorem busRead_opr (p : Config.Params) (a : Byte) (s : State) : (busRead p a s).opr =
    s.opr := by simp [busRead]
@[simp] theorem busRead_res (p : Config.Params) (a : Byte) (s : State) : (busRead p a s).res =
    s.res := by simp [busRead]
@[simp] theorem busRead_hid (p : Config.Params) (a : Byte) (s : State) : (busRead p a s).hid =
    s.hid := by simp [busRead]
@[simp] theorem busRead_ctl (p : Config.Params) (a : Byte) (s : State) : (busRead p a s).ctl =
    s.ctl := by simp [busRead]
@[simp] theorem busRead_bus (p : Config.Params) (a : Byte) (s : State) : (busRead p a s).bus =
    afterRead (addressField (readAddressByte a)) s.bus := by simp [busRead, exchangeKept, afterRead, nextAnswer]
@[simp] theorem busRead_request (p : Config.Params) (a : Byte) (s : State) : (busRead p a s).request =
    s.request := by simp [busRead]

/-! `busWrite`. -/

@[simp] theorem busWrite_opr (a v : Byte) (s : State) : (busWrite a v s).opr = s.opr := by simp [busWrite]
@[simp] theorem busWrite_res (a v : Byte) (s : State) : (busWrite a v s).res = s.res := by simp [busWrite]
@[simp] theorem busWrite_hid (a v : Byte) (s : State) : (busWrite a v s).hid = s.hid := by simp [busWrite]
@[simp] theorem busWrite_ctl (a v : Byte) (s : State) : (busWrite a v s).ctl = s.ctl := by simp [busWrite]
@[simp] theorem busWrite_bus (a v : Byte) (s : State) : (busWrite a v s).bus =
    afterWrite (addressField (writeAddressByte a)) (v) s.bus := by simp [busWrite, afterWrite]
@[simp] theorem busWrite_request (a v : Byte) (s : State) : (busWrite a v s).request = s.request := by simp [busWrite]

/-! `setVal`. -/

@[simp] theorem setVal_opr (v : Byte) (s : State) : (setVal v s).opr = s.opr := by simp [setVal]
@[simp] theorem setVal_res (v : Byte) (s : State) : (setVal v s).res = { s.res with val := v } := by simp [setVal]
@[simp] theorem setVal_hid (v : Byte) (s : State) : (setVal v s).hid = s.hid := by simp [setVal]
@[simp] theorem setVal_ctl (v : Byte) (s : State) : (setVal v s).ctl = s.ctl := by simp [setVal]
@[simp] theorem setVal_bus (v : Byte) (s : State) : (setVal v s).bus = s.bus := by simp [setVal]
@[simp] theorem setVal_request (v : Byte) (s : State) : (setVal v s).request = s.request := by simp [setVal]

/-! `readVal`. -/

@[simp] theorem readVal_opr (p : Config.Params) (a : Byte) (s : State) : (readVal p a s).opr = s.opr := by simp [readVal]
@[simp] theorem readVal_res (p : Config.Params) (a : Byte) (s : State) : (readVal p a s).res =
    { s.res with val := nextAnswer s.bus } := by simp [readVal]
@[simp] theorem readVal_hid (p : Config.Params) (a : Byte) (s : State) : (readVal p a s).hid = s.hid := by simp [readVal]
@[simp] theorem readVal_ctl (p : Config.Params) (a : Byte) (s : State) : (readVal p a s).ctl = s.ctl := by simp [readVal]
@[simp] theorem readVal_bus (p : Config.Params) (a : Byte) (s : State) : (readVal p a s).bus =
    afterRead (addressField (readAddressByte a)) s.bus := by simp [readVal]
@[simp] theorem readVal_request (p : Config.Params) (a : Byte) (s : State) : (readVal p a s).request = s.request := by simp [readVal]

/-! `readTmp`. -/

@[simp] theorem readTmp_opr (p : Config.Params) (a : Byte) (s : State) : (readTmp p a s).opr = s.opr := by simp [readTmp]
@[simp] theorem readTmp_res (p : Config.Params) (a : Byte) (s : State) : (readTmp p a s).res = s.res := by simp [readTmp]
@[simp] theorem readTmp_hid (p : Config.Params) (a : Byte) (s : State) : (readTmp p a s).hid =
    { s.hid with tmp := nextAnswer s.bus } := by simp [readTmp]
@[simp] theorem readTmp_ctl (p : Config.Params) (a : Byte) (s : State) : (readTmp p a s).ctl = s.ctl := by simp [readTmp]
@[simp] theorem readTmp_bus (p : Config.Params) (a : Byte) (s : State) : (readTmp p a s).bus =
    afterRead (addressField (readAddressByte a)) s.bus := by simp [readTmp]
@[simp] theorem readTmp_request (p : Config.Params) (a : Byte) (s : State) : (readTmp p a s).request = s.request := by simp [readTmp]

/-! `readN`. -/

@[simp] theorem readN_opr (p : Config.Params) (a : Byte) (s : State) : (readN p a s).opr = s.opr := by simp [readN]
@[simp] theorem readN_res (p : Config.Params) (a : Byte) (s : State) : (readN p a s).res = s.res := by simp [readN]
@[simp] theorem readN_hid (p : Config.Params) (a : Byte) (s : State) : (readN p a s).hid = { s.hid with n := nextAnswer s.bus } := by simp [readN]
@[simp] theorem readN_ctl (p : Config.Params) (a : Byte) (s : State) : (readN p a s).ctl = s.ctl := by simp [readN]
@[simp] theorem readN_bus (p : Config.Params) (a : Byte) (s : State) : (readN p a s).bus =
    afterRead (addressField (readAddressByte a)) s.bus := by simp [readN]
@[simp] theorem readN_request (p : Config.Params) (a : Byte) (s : State) : (readN p a s).request = s.request := by simp [readN]

/-! `readE`. -/

@[simp] theorem readE_opr (p : Config.Params) (s : State) : (readE p s).opr = s.opr := by simp [readE]
@[simp] theorem readE_res (p : Config.Params) (s : State) : (readE p s).res = s.res := by simp [readE]
@[simp] theorem readE_hid (p : Config.Params) (s : State) : (readE p s).hid = { s.hid with e := nextAnswer s.bus } := by simp [readE]
@[simp] theorem readE_ctl (p : Config.Params) (s : State) : (readE p s).ctl = s.ctl := by simp [readE]
@[simp] theorem readE_bus (p : Config.Params) (s : State) : (readE p s).bus =
    afterRead (addressField (readAddressByte regError)) s.bus := by simp [readE]
@[simp] theorem readE_request (p : Config.Params) (s : State) : (readE p s).request = s.request := by simp [readE]

/-! `readL`. -/

@[simp] theorem readL_opr (p : Config.Params) (s : State) : (readL p s).opr = s.opr := by simp [readL]
@[simp] theorem readL_res (p : Config.Params) (s : State) : (readL p s).res = s.res := by simp [readL]
@[simp] theorem readL_hid (p : Config.Params) (s : State) : (readL p s).hid = { s.hid with l := nextAnswer s.bus } := by simp [readL]
@[simp] theorem readL_ctl (p : Config.Params) (s : State) : (readL p s).ctl = s.ctl := by simp [readL]
@[simp] theorem readL_bus (p : Config.Params) (s : State) : (readL p s).bus =
    afterRead (addressField (readAddressByte regFifolevel)) s.bus := by simp [readL]
@[simp] theorem readL_request (p : Config.Params) (s : State) : (readL p s).request = s.request := by simp [readL]

/-! `readLastbits`. -/

@[simp] theorem readLastbits_opr (p : Config.Params) (s : State) : (readLastbits p s).opr = s.opr := by simp [readLastbits]
@[simp] theorem readLastbits_res (p : Config.Params) (s : State) : (readLastbits p s).res = s.res := by simp [readLastbits]
@[simp] theorem readLastbits_hid (p : Config.Params) (s : State) : (readLastbits p s).hid =
    { s.hid with lastbits := (nextAnswer s.bus &&& p.lastbitsMask).setWidth 3 } := by simp [readLastbits]
@[simp] theorem readLastbits_ctl (p : Config.Params) (s : State) : (readLastbits p s).ctl = s.ctl := by simp [readLastbits]
@[simp] theorem readLastbits_bus (p : Config.Params) (s : State) : (readLastbits p s).bus =
    afterRead (addressField (readAddressByte regControl)) s.bus := by simp [readLastbits]
@[simp] theorem readLastbits_request (p : Config.Params) (s : State) : (readLastbits p s).request =
    s.request := by simp [readLastbits]

/-! `readC0`. -/

@[simp] theorem readC0_opr (p : Config.Params) (s : State) : (readC0 p s).opr = s.opr := by simp [readC0]
@[simp] theorem readC0_res (p : Config.Params) (s : State) : (readC0 p s).res = s.res := by simp [readC0]
@[simp] theorem readC0_hid (p : Config.Params) (s : State) : (readC0 p s).hid =
    { s.hid with c0 := nextAnswer s.bus } := by simp [readC0]
@[simp] theorem readC0_ctl (p : Config.Params) (s : State) : (readC0 p s).ctl = s.ctl := by simp [readC0]
@[simp] theorem readC0_bus (p : Config.Params) (s : State) : (readC0 p s).bus =
    afterRead (addressField (readAddressByte p.regCrcLo)) s.bus := by simp [readC0]
@[simp] theorem readC0_request (p : Config.Params) (s : State) : (readC0 p s).request = s.request := by simp [readC0]

/-! `readC1`. -/

@[simp] theorem readC1_opr (p : Config.Params) (s : State) : (readC1 p s).opr = s.opr := by simp [readC1]
@[simp] theorem readC1_res (p : Config.Params) (s : State) : (readC1 p s).res = s.res := by simp [readC1]
@[simp] theorem readC1_hid (p : Config.Params) (s : State) : (readC1 p s).hid =
    { s.hid with c1 := nextAnswer s.bus } := by simp [readC1]
@[simp] theorem readC1_ctl (p : Config.Params) (s : State) : (readC1 p s).ctl = s.ctl := by simp [readC1]
@[simp] theorem readC1_bus (p : Config.Params) (s : State) : (readC1 p s).bus =
    afterRead (addressField (readAddressByte p.regCrcMid)) s.bus := by simp [readC1]
@[simp] theorem readC1_request (p : Config.Params) (s : State) : (readC1 p s).request = s.request := by simp [readC1]

/-! `writeSet`. -/

@[simp] theorem writeSet_opr (a m : Byte) (s : State) : (writeSet a m s).opr = s.opr := by simp [writeSet]
@[simp] theorem writeSet_res (a m : Byte) (s : State) : (writeSet a m s).res = s.res := by simp [writeSet]
@[simp] theorem writeSet_hid (a m : Byte) (s : State) : (writeSet a m s).hid = s.hid := by simp [writeSet]
@[simp] theorem writeSet_ctl (a m : Byte) (s : State) : (writeSet a m s).ctl = s.ctl := by simp [writeSet]
@[simp] theorem writeSet_bus (a m : Byte) (s : State) : (writeSet a m s).bus =
    afterWrite (addressField (writeAddressByte a)) (s.hid.tmp ||| m) s.bus := by simp [writeSet]
@[simp] theorem writeSet_request (a m : Byte) (s : State) : (writeSet a m s).request = s.request := by simp [writeSet]

/-! `writeClear`. -/

@[simp] theorem writeClear_opr (a m : Byte) (s : State) : (writeClear a m s).opr = s.opr := by simp [writeClear]
@[simp] theorem writeClear_res (a m : Byte) (s : State) : (writeClear a m s).res = s.res := by simp [writeClear]
@[simp] theorem writeClear_hid (a m : Byte) (s : State) : (writeClear a m s).hid = s.hid := by simp [writeClear]
@[simp] theorem writeClear_ctl (a m : Byte) (s : State) : (writeClear a m s).ctl = s.ctl := by simp [writeClear]
@[simp] theorem writeClear_bus (a m : Byte) (s : State) : (writeClear a m s).bus =
    afterWrite (addressField (writeAddressByte a)) (s.hid.tmp &&& ~~~m) s.bus := by simp [writeClear]
@[simp] theorem writeClear_request (a m : Byte) (s : State) : (writeClear a m s).request = s.request := by simp [writeClear]

/-! `setBits`. -/

@[simp] theorem setBits_opr (p : Config.Params) (a m : Byte) (s : State) : (setBits p a m s).opr = s.opr := by simp [setBits]
@[simp] theorem setBits_res (p : Config.Params) (a m : Byte) (s : State) : (setBits p a m s).res = s.res := by simp [setBits]
@[simp] theorem setBits_hid (p : Config.Params) (a m : Byte) (s : State) : (setBits p a m s).hid =
    { s.hid with tmp := nextAnswer s.bus } := by simp [setBits]
@[simp] theorem setBits_ctl (p : Config.Params) (a m : Byte) (s : State) : (setBits p a m s).ctl = s.ctl := by simp [setBits]
@[simp] theorem setBits_bus (p : Config.Params) (a m : Byte) (s : State) : (setBits p a m s).bus =
    afterWrite (addressField (writeAddressByte a)) (nextAnswer s.bus ||| m) (afterRead (addressField (readAddressByte a)) s.bus) :=
    by simp [setBits]
@[simp] theorem setBits_request (p : Config.Params) (a m : Byte) (s : State) : (setBits p a m s).request = s.request := by simp [setBits]

/-! `clearBits`. -/

@[simp] theorem clearBits_opr (p : Config.Params) (a m : Byte) (s : State) : (clearBits p a m s).opr = s.opr := by simp [clearBits]
@[simp] theorem clearBits_res (p : Config.Params) (a m : Byte) (s : State) : (clearBits p a m s).res = s.res := by simp [clearBits]
@[simp] theorem clearBits_hid (p : Config.Params) (a m : Byte) (s : State) : (clearBits p a m s).hid =
    { s.hid with tmp := nextAnswer s.bus } := by simp [clearBits]
@[simp] theorem clearBits_ctl (p : Config.Params) (a m : Byte) (s : State) : (clearBits p a m s).ctl = s.ctl := by simp [clearBits]
@[simp] theorem clearBits_bus (p : Config.Params) (a m : Byte) (s : State) : (clearBits p a m s).bus =
    afterWrite (addressField (writeAddressByte a)) (nextAnswer s.bus &&& ~~~m) (afterRead (addressField (readAddressByte a)) s.bus) :=
    by simp [clearBits]
@[simp] theorem clearBits_request (p : Config.Params) (a m : Byte) (s : State) : (clearBits p a m s).request = s.request := by simp [clearBits]

/-! `setCnt`. -/

@[simp] theorem setCnt_opr (k : BitVec 16) (s : State) : (setCnt k s).opr = s.opr := by simp [setCnt]
@[simp] theorem setCnt_res (k : BitVec 16) (s : State) : (setCnt k s).res = s.res := by simp [setCnt]
@[simp] theorem setCnt_hid (k : BitVec 16) (s : State) : (setCnt k s).hid = { s.hid with cnt := k } := by simp [setCnt]
@[simp] theorem setCnt_ctl (k : BitVec 16) (s : State) : (setCnt k s).ctl = s.ctl := by simp [setCnt]
@[simp] theorem setCnt_bus (k : BitVec 16) (s : State) : (setCnt k s).bus = s.bus := by simp [setCnt]
@[simp] theorem setCnt_request (k : BitVec 16) (s : State) : (setCnt k s).request = s.request := by simp [setCnt]

/-! `countDown`. -/

@[simp] theorem countDown_opr (s : State) : (countDown s).opr = s.opr := by simp [countDown]
@[simp] theorem countDown_res (s : State) : (countDown s).res = s.res := by simp [countDown]
@[simp] theorem countDown_hid (s : State) : (countDown s).hid = { s.hid with cnt := s.hid.cnt - 1 } := by simp [countDown]
@[simp] theorem countDown_ctl (s : State) : (countDown s).ctl = s.ctl := by simp [countDown]
@[simp] theorem countDown_bus (s : State) : (countDown s).bus = s.bus := by simp [countDown]
@[simp] theorem countDown_request (s : State) : (countDown s).request = s.request := by simp [countDown]

/-! `setI`. -/

@[simp] theorem setI_opr (k : BitVec 7) (s : State) : (setI k s).opr = s.opr := by simp [setI]
@[simp] theorem setI_res (k : BitVec 7) (s : State) : (setI k s).res = s.res := by simp [setI]
@[simp] theorem setI_hid (k : BitVec 7) (s : State) : (setI k s).hid = { s.hid with i := k } := by simp [setI]
@[simp] theorem setI_ctl (k : BitVec 7) (s : State) : (setI k s).ctl = s.ctl := by simp [setI]
@[simp] theorem setI_bus (k : BitVec 7) (s : State) : (setI k s).bus = s.bus := by simp [setI]
@[simp] theorem setI_request (k : BitVec 7) (s : State) : (setI k s).request = s.request := by simp [setI]

/-! `fifoPush`. -/

@[simp] theorem fifoPush_opr (s : State) : (fifoPush s).opr = s.opr := by simp [fifoPush]
@[simp] theorem fifoPush_res (s : State) : (fifoPush s).res = s.res := by simp [fifoPush]
@[simp] theorem fifoPush_hid (s : State) : (fifoPush s).hid = { s.hid with i := s.hid.i + 1 } := by simp [fifoPush]
@[simp] theorem fifoPush_ctl (s : State) : (fifoPush s).ctl = s.ctl := by simp [fifoPush]
@[simp] theorem fifoPush_bus (s : State) : (fifoPush s).bus =
    afterWrite (addressField (writeAddressByte regFifodata)) (byteAt s.hid.frame s.hid.i.toNat) s.bus := by simp [fifoPush]
@[simp] theorem fifoPush_request (s : State) : (fifoPush s).request = s.request := by simp [fifoPush]

/-! `issueCommand`. -/

@[simp] theorem issueCommand_opr (c : Byte) (s : State) : (issueCommand c s).opr = s.opr := by simp [issueCommand]
@[simp] theorem issueCommand_res (c : Byte) (s : State) : (issueCommand c s).res = s.res := by simp [issueCommand]
@[simp] theorem issueCommand_hid (c : Byte) (s : State) : (issueCommand c s).hid = s.hid := by simp [issueCommand]
@[simp] theorem issueCommand_ctl (c : Byte) (s : State) : (issueCommand c s).ctl = s.ctl := by simp [issueCommand]
@[simp] theorem issueCommand_bus (c : Byte) (s : State) : (issueCommand c s).bus =
    afterWrite (addressField (writeAddressByte regCommand)) (c) s.bus := by simp [issueCommand]
@[simp] theorem issueCommand_request (c : Byte) (s : State) : (issueCommand c s).request = s.request := by simp [issueCommand]

/-! `takeStart`. -/

@[simp] theorem takeStart_opr (q : Seq) (s : State) : (takeStart q s).opr = s.opr := by simp [takeStart]
@[simp] theorem takeStart_res (q : Seq) (s : State) : (takeStart q s).res = s.res := by simp [takeStart]
@[simp] theorem takeStart_hid (q : Seq) (s : State) : (takeStart q s).hid = s.hid := by simp [takeStart]
@[simp] theorem takeStart_ctl (q : Seq) (s : State) : (takeStart q s).ctl =
    { start := false, busy := true, done := false, seq := q } := by simp [takeStart]
@[simp] theorem takeStart_bus (q : Seq) (s : State) : (takeStart q s).bus = s.bus := by simp [takeStart]
@[simp] theorem takeStart_request (q : Seq) (s : State) : (takeStart q s).request = s.request := by simp [takeStart]

/-! `finish`. -/

@[simp] theorem finish_opr (s : State) : (finish s).opr = s.opr := by simp [finish]
@[simp] theorem finish_res (s : State) : (finish s).res = s.res := by simp [finish]
@[simp] theorem finish_hid (s : State) : (finish s).hid = s.hid := by simp [finish]
@[simp] theorem finish_ctl (s : State) : (finish s).ctl =
    { s.ctl with busy := false, done := true, seq := .idle } := by simp [finish]
@[simp] theorem finish_bus (s : State) : (finish s).bus = s.bus := by simp [finish]
@[simp] theorem finish_request (s : State) : (finish s).request = s.request := by simp [finish]

/-! `setStatus`. -/

@[simp] theorem setStatus_opr (st : Status) (s : State) : (setStatus st s).opr = s.opr := by simp [setStatus]
@[simp] theorem setStatus_res (st : Status) (s : State) : (setStatus st s).res =
    { s.res with status := st } := by simp [setStatus]
@[simp] theorem setStatus_hid (st : Status) (s : State) : (setStatus st s).hid = s.hid := by simp [setStatus]
@[simp] theorem setStatus_ctl (st : Status) (s : State) : (setStatus st s).ctl = s.ctl := by simp [setStatus]
@[simp] theorem setStatus_bus (st : Status) (s : State) : (setStatus st s).bus = s.bus := by simp [setStatus]
@[simp] theorem setStatus_request (st : Status) (s : State) : (setStatus st s).request = s.request := by simp [setStatus]

/-! `refuse`. -/

@[simp] theorem refuse_opr (s : State) : (refuse s).opr = s.opr := by simp [refuse]
@[simp] theorem refuse_res (s : State) : (refuse s).res = { s.res with status := .error } := by simp [refuse]
@[simp] theorem refuse_hid (s : State) : (refuse s).hid = s.hid := by simp [refuse]
@[simp] theorem refuse_ctl (s : State) : (refuse s).ctl = s.ctl := by simp [refuse]
@[simp] theorem refuse_bus (s : State) : (refuse s).bus = s.bus := by simp [refuse]
@[simp] theorem refuse_request (s : State) : (refuse s).request = s.request := by simp [refuse]

/-! `setFlag`. -/

@[simp] theorem setFlag_opr (b : Bool) (s : State) : (setFlag b s).opr = s.opr := by simp [setFlag]
@[simp] theorem setFlag_res (b : Bool) (s : State) : (setFlag b s).res = { s.res with flag := b } := by simp [setFlag]
@[simp] theorem setFlag_hid (b : Bool) (s : State) : (setFlag b s).hid = s.hid := by simp [setFlag]
@[simp] theorem setFlag_ctl (b : Bool) (s : State) : (setFlag b s).ctl = s.ctl := by simp [setFlag]
@[simp] theorem setFlag_bus (b : Bool) (s : State) : (setFlag b s).bus = s.bus := by simp [setFlag]
@[simp] theorem setFlag_request (b : Bool) (s : State) : (setFlag b s).request = s.request := by simp [setFlag]

/-! `setCtype`. -/

@[simp] theorem setCtype_opr (c : CardType) (s : State) : (setCtype c s).opr = s.opr := by simp [setCtype]
@[simp] theorem setCtype_res (c : CardType) (s : State) : (setCtype c s).res = { s.res with ctype := c } := by simp [setCtype]
@[simp] theorem setCtype_hid (c : CardType) (s : State) : (setCtype c s).hid = s.hid := by simp [setCtype]
@[simp] theorem setCtype_ctl (c : CardType) (s : State) : (setCtype c s).ctl = s.ctl := by simp [setCtype]
@[simp] theorem setCtype_bus (c : CardType) (s : State) : (setCtype c s).bus = s.bus := by simp [setCtype]
@[simp] theorem setCtype_request (c : CardType) (s : State) : (setCtype c s).request = s.request := by simp [setCtype]

/-! `deliverCrc`. -/

@[simp] theorem deliverCrc_opr (s : State) : (deliverCrc s).opr = s.opr := by simp [deliverCrc]
@[simp] theorem deliverCrc_res (s : State) : (deliverCrc s).res =
    { s.res with crc0 := s.hid.c0, crc1 := s.hid.c1 } := by simp [deliverCrc]
@[simp] theorem deliverCrc_hid (s : State) : (deliverCrc s).hid = s.hid := by simp [deliverCrc]
@[simp] theorem deliverCrc_ctl (s : State) : (deliverCrc s).ctl = s.ctl := by simp [deliverCrc]
@[simp] theorem deliverCrc_bus (s : State) : (deliverCrc s).bus = s.bus := by simp [deliverCrc]
@[simp] theorem deliverCrc_request (s : State) : (deliverCrc s).request = s.request := by simp [deliverCrc]

/-! `deliver`. -/

@[simp] theorem deliver_opr (st : Status) (s : State) : (deliver st s).opr = s.opr := by simp [deliver]
@[simp] theorem deliver_res (st : Status) (s : State) : (deliver st s).res =
    { s.res with status := st, bits := s.hid.xbits, rlen := s.hid.xlen, rbuf := s.hid.xbuf } := by simp [deliver]
@[simp] theorem deliver_hid (st : Status) (s : State) : (deliver st s).hid = s.hid := by simp [deliver]
@[simp] theorem deliver_ctl (st : Status) (s : State) : (deliver st s).ctl = s.ctl := by simp [deliver]
@[simp] theorem deliver_bus (st : Status) (s : State) : (deliver st s).bus = s.bus := by simp [deliver]
@[simp] theorem deliver_request (st : Status) (s : State) : (deliver st s).request = s.request := by simp [deliver]

/-! `setFrame`. -/

@[simp] theorem setFrame_opr (bs : List Byte) (k : BitVec 7) (s : State) : (setFrame bs k s).opr = s.opr := by simp [setFrame]
@[simp] theorem setFrame_res (bs : List Byte) (k : BitVec 7) (s : State) : (setFrame bs k s).res = s.res := by simp [setFrame]
@[simp] theorem setFrame_hid (bs : List Byte) (k : BitVec 7) (s : State) : (setFrame bs k s).hid =
    { s.hid with frame := storeBytes s.hid.frame bs, flen := k } := by simp [setFrame]
@[simp] theorem setFrame_ctl (bs : List Byte) (k : BitVec 7) (s : State) : (setFrame bs k s).ctl = s.ctl := by simp [setFrame]
@[simp] theorem setFrame_bus (bs : List Byte) (k : BitVec 7) (s : State) : (setFrame bs k s).bus = s.bus := by simp [setFrame]
@[simp] theorem setFrame_request (bs : List Byte) (k : BitVec 7) (s : State) : (setFrame bs k s).request =
    s.request := by simp [setFrame]

/-! `loadFrame`. -/

@[simp] theorem loadFrame_opr (s : State) : (loadFrame s).opr = s.opr := by simp [loadFrame]
@[simp] theorem loadFrame_res (s : State) : (loadFrame s).res = s.res := by simp [loadFrame]
@[simp] theorem loadFrame_hid (s : State) : (loadFrame s).hid =
    { s.hid with frame := storeBytes s.hid.frame (firstBytes s.opr.buf s.opr.len.toNat), flen := s.opr.len } :=
    by simp [loadFrame]
@[simp] theorem loadFrame_ctl (s : State) : (loadFrame s).ctl = s.ctl := by simp [loadFrame]
@[simp] theorem loadFrame_bus (s : State) : (loadFrame s).bus = s.bus := by simp [loadFrame]
@[simp] theorem loadFrame_request (s : State) : (loadFrame s).request = s.request := by simp [loadFrame]

/-! `frameRequest`. -/

@[simp] theorem frameRequest_opr (m : Byte) (s : State) : (frameRequest m s).opr = s.opr := by simp [frameRequest]
@[simp] theorem frameRequest_res (m : Byte) (s : State) : (frameRequest m s).res = s.res := by simp [frameRequest]
@[simp] theorem frameRequest_hid (m : Byte) (s : State) : (frameRequest m s).hid =
    { s.hid with frame := storeBytes s.hid.frame [m], flen := 1 } := by simp [frameRequest]
@[simp] theorem frameRequest_ctl (m : Byte) (s : State) : (frameRequest m s).ctl = s.ctl := by simp [frameRequest]
@[simp] theorem frameRequest_bus (m : Byte) (s : State) : (frameRequest m s).bus = s.bus := by simp [frameRequest]
@[simp] theorem frameRequest_request (m : Byte) (s : State) : (frameRequest m s).request = s.request := by simp [frameRequest]

/-! `frameAnticollision`. -/

@[simp] theorem frameAnticollision_opr (s : State) : (frameAnticollision s).opr = s.opr := by simp [frameAnticollision]
@[simp] theorem frameAnticollision_res (s : State) : (frameAnticollision s).res = s.res := by simp [frameAnticollision]
@[simp] theorem frameAnticollision_hid (s : State) : (frameAnticollision s).hid =
    { s.hid with frame := storeBytes s.hid.frame [piccAnticoll, nvbAnticoll], flen := 2 } := by simp [frameAnticollision]
@[simp] theorem frameAnticollision_ctl (s : State) : (frameAnticollision s).ctl = s.ctl := by simp [frameAnticollision]
@[simp] theorem frameAnticollision_bus (s : State) : (frameAnticollision s).bus = s.bus := by simp [frameAnticollision]
@[simp] theorem frameAnticollision_request (s : State) : (frameAnticollision s).request =
    s.request := by simp [frameAnticollision]

/-! `frameSelectHead`. -/

@[simp] theorem frameSelectHead_opr (uid : List Byte) (s : State) : (frameSelectHead uid s).opr =
    s.opr := by simp [frameSelectHead]
@[simp] theorem frameSelectHead_res (uid : List Byte) (s : State) : (frameSelectHead uid s).res =
    s.res := by simp [frameSelectHead]
@[simp] theorem frameSelectHead_hid (uid : List Byte) (s : State) : (frameSelectHead uid s).hid =
    { s.hid with frame := storeBytes s.hid.frame ([piccSelectByte, nvbSelect] ++ uid) } := by simp [frameSelectHead]
@[simp] theorem frameSelectHead_ctl (uid : List Byte) (s : State) : (frameSelectHead uid s).ctl =
    s.ctl := by simp [frameSelectHead]
@[simp] theorem frameSelectHead_bus (uid : List Byte) (s : State) : (frameSelectHead uid s).bus =
    s.bus := by simp [frameSelectHead]
@[simp] theorem frameSelectHead_request (uid : List Byte) (s : State) : (frameSelectHead uid s).request =
    s.request := by simp [frameSelectHead]

/-! `frameHaltHead`. -/

@[simp] theorem frameHaltHead_opr (s : State) : (frameHaltHead s).opr = s.opr := by simp [frameHaltHead]
@[simp] theorem frameHaltHead_res (s : State) : (frameHaltHead s).res = s.res := by simp [frameHaltHead]
@[simp] theorem frameHaltHead_hid (s : State) : (frameHaltHead s).hid =
    { s.hid with frame := storeBytes s.hid.frame [piccHaltByte, haltSecondByte] } := by simp [frameHaltHead]
@[simp] theorem frameHaltHead_ctl (s : State) : (frameHaltHead s).ctl = s.ctl := by simp [frameHaltHead]
@[simp] theorem frameHaltHead_bus (s : State) : (frameHaltHead s).bus = s.bus := by simp [frameHaltHead]
@[simp] theorem frameHaltHead_request (s : State) : (frameHaltHead s).request = s.request := by simp [frameHaltHead]

/-! `appendCrc`. -/

@[simp] theorem appendCrc_opr (k : Nat) (c0 c1 : Byte) (s : State) : (appendCrc k c0 c1 s).opr = s.opr := by simp [appendCrc]
@[simp] theorem appendCrc_res (k : Nat) (c0 c1 : Byte) (s : State) : (appendCrc k c0 c1 s).res = s.res := by simp [appendCrc]
@[simp] theorem appendCrc_hid (k : Nat) (c0 c1 : Byte) (s : State) : (appendCrc k c0 c1 s).hid =
    { s.hid with frame := (s.hid.frame.setIfInBounds k c0).setIfInBounds (k + 1) c1, flen := BitVec.ofNat 7 (k + 2) } :=
    by simp [appendCrc]
@[simp] theorem appendCrc_ctl (k : Nat) (c0 c1 : Byte) (s : State) : (appendCrc k c0 c1 s).ctl = s.ctl := by simp [appendCrc]
@[simp] theorem appendCrc_bus (k : Nat) (c0 c1 : Byte) (s : State) : (appendCrc k c0 c1 s).bus = s.bus := by simp [appendCrc]
@[simp] theorem appendCrc_request (k : Nat) (c0 c1 : Byte) (s : State) : (appendCrc k c0 c1 s).request =
    s.request := by simp [appendCrc]

/-! `execSetup`. -/

@[simp] theorem execSetup_opr (c : Byte) (s : State) : (execSetup c s).opr = s.opr := by simp [execSetup]
@[simp] theorem execSetup_res (c : Byte) (s : State) : (execSetup c s).res = s.res := by simp [execSetup]
@[simp] theorem execSetup_hid (c : Byte) (s : State) : (execSetup c s).hid = { s.hid with
    cmdr := c, irqen := (commandMasks c).1, waitirq := (commandMasks c).2,
    xst := .error, xbits := 0, xlen := 0, xbuf := Vector.replicate 16 0 } := by simp [execSetup]
@[simp] theorem execSetup_ctl (c : Byte) (s : State) : (execSetup c s).ctl = s.ctl := by simp [execSetup]
@[simp] theorem execSetup_bus (c : Byte) (s : State) : (execSetup c s).bus = s.bus := by simp [execSetup]
@[simp] theorem execSetup_request (c : Byte) (s : State) : (execSetup c s).request = s.request := by simp [execSetup]

/-! `execEnable`. -/

@[simp] theorem execEnable_opr (p : Config.Params) (s : State) : (execEnable p s).opr = s.opr := by simp [execEnable]
@[simp] theorem execEnable_res (p : Config.Params) (s : State) : (execEnable p s).res = s.res := by simp [execEnable]
@[simp] theorem execEnable_hid (p : Config.Params) (s : State) : (execEnable p s).hid = s.hid := by simp [execEnable]
@[simp] theorem execEnable_ctl (p : Config.Params) (s : State) : (execEnable p s).ctl = s.ctl := by simp [execEnable]
@[simp] theorem execEnable_bus (p : Config.Params) (s : State) : (execEnable p s).bus =
    afterWrite (addressField (writeAddressByte p.regIrqen)) (s.hid.irqen ||| p.irqGlobalEn) s.bus := by simp [execEnable]
@[simp] theorem execEnable_request (p : Config.Params) (s : State) : (execEnable p s).request = s.request := by simp [execEnable]

/-! `execCommand`. -/

@[simp] theorem execCommand_opr (s : State) : (execCommand s).opr = s.opr := by simp [execCommand]
@[simp] theorem execCommand_res (s : State) : (execCommand s).res = s.res := by simp [execCommand]
@[simp] theorem execCommand_hid (s : State) : (execCommand s).hid = s.hid := by simp [execCommand]
@[simp] theorem execCommand_ctl (s : State) : (execCommand s).ctl = s.ctl := by simp [execCommand]
@[simp] theorem execCommand_bus (s : State) : (execCommand s).bus =
    afterWrite (addressField (writeAddressByte regCommand)) (s.hid.cmdr) s.bus := by simp [execCommand]
@[simp] theorem execCommand_request (s : State) : (execCommand s).request = s.request := by simp [execCommand]

/-! `execJudge`. -/

@[simp] theorem execJudge_opr (p : Config.Params) (s : State) : (execJudge p s).opr = s.opr := by simp [execJudge]
@[simp] theorem execJudge_res (p : Config.Params) (s : State) : (execJudge p s).res = s.res := by simp [execJudge]
@[simp] theorem execJudge_hid (p : Config.Params) (s : State) : (execJudge p s).hid =
    { s.hid with xst := execOutcome p s.hid.e s.hid.n s.hid.irqen } := by simp [execJudge]
@[simp] theorem execJudge_ctl (p : Config.Params) (s : State) : (execJudge p s).ctl = s.ctl := by simp [execJudge]
@[simp] theorem execJudge_bus (p : Config.Params) (s : State) : (execJudge p s).bus = s.bus := by simp [execJudge]
@[simp] theorem execJudge_request (p : Config.Params) (s : State) : (execJudge p s).request = s.request := by simp [execJudge]

/-! `execCount`. -/

@[simp] theorem execCount_opr (s : State) : (execCount s).opr = s.opr := by simp [execCount]
@[simp] theorem execCount_res (s : State) : (execCount s).res = s.res := by simp [execCount]
@[simp] theorem execCount_hid (s : State) : (execCount s).hid =
    { s.hid with xbits := bitCount s.hid.l s.hid.lastbits, xlen := drainCount s.hid.l, i := 0 } := by simp [execCount]
@[simp] theorem execCount_ctl (s : State) : (execCount s).ctl = s.ctl := by simp [execCount]
@[simp] theorem execCount_bus (s : State) : (execCount s).bus = s.bus := by simp [execCount]
@[simp] theorem execCount_request (s : State) : (execCount s).request = s.request := by simp [execCount]

/-! `drainOne`. -/

@[simp] theorem drainOne_opr (p : Config.Params) (s : State) : (drainOne p s).opr = s.opr := by simp [drainOne]
@[simp] theorem drainOne_res (p : Config.Params) (s : State) : (drainOne p s).res = s.res := by simp [drainOne]
@[simp] theorem drainOne_hid (p : Config.Params) (s : State) : (drainOne p s).hid =
    { s.hid with xbuf := s.hid.xbuf.setIfInBounds s.hid.i.toNat (nextAnswer s.bus), i := s.hid.i + 1 } := by simp [drainOne]
@[simp] theorem drainOne_ctl (p : Config.Params) (s : State) : (drainOne p s).ctl = s.ctl := by simp [drainOne]
@[simp] theorem drainOne_bus (p : Config.Params) (s : State) : (drainOne p s).bus =
    afterRead (addressField (readAddressByte regFifodata)) s.bus := by simp [drainOne]
@[simp] theorem drainOne_request (p : Config.Params) (s : State) : (drainOne p s).request = s.request := by simp [drainOne]

/-! `crcPollTurn`. -/

@[simp] theorem crcPollTurn_opr (p : Config.Params) (s : State) : (crcPollTurn p s).opr = s.opr := by simp [crcPollTurn]
@[simp] theorem crcPollTurn_res (p : Config.Params) (s : State) : (crcPollTurn p s).res = s.res := by simp [crcPollTurn]
@[simp] theorem crcPollTurn_hid (p : Config.Params) (s : State) : (crcPollTurn p s).hid =
    { s.hid with n := nextAnswer s.bus, cnt := s.hid.cnt - 1 } := by simp [crcPollTurn]
@[simp] theorem crcPollTurn_ctl (p : Config.Params) (s : State) : (crcPollTurn p s).ctl = s.ctl := by simp [crcPollTurn]
@[simp] theorem crcPollTurn_bus (p : Config.Params) (s : State) : (crcPollTurn p s).bus =
    afterRead (addressField (readAddressByte p.regCrcirq)) s.bus := by simp [crcPollTurn]
@[simp] theorem crcPollTurn_request (p : Config.Params) (s : State) : (crcPollTurn p s).request =
    s.request := by simp [crcPollTurn]

/-! `execPollTurn`. -/

@[simp] theorem execPollTurn_opr (p : Config.Params) (s : State) : (execPollTurn p s).opr = s.opr := by simp [execPollTurn]
@[simp] theorem execPollTurn_res (p : Config.Params) (s : State) : (execPollTurn p s).res = s.res := by simp [execPollTurn]
@[simp] theorem execPollTurn_hid (p : Config.Params) (s : State) : (execPollTurn p s).hid =
    { s.hid with n := nextAnswer s.bus, cnt := s.hid.cnt - 1 } := by simp [execPollTurn]
@[simp] theorem execPollTurn_ctl (p : Config.Params) (s : State) : (execPollTurn p s).ctl = s.ctl := by simp [execPollTurn]
@[simp] theorem execPollTurn_bus (p : Config.Params) (s : State) : (execPollTurn p s).bus =
    afterRead (addressField (readAddressByte p.regIrqst)) s.bus := by simp [execPollTurn]
@[simp] theorem execPollTurn_request (p : Config.Params) (s : State) : (execPollTurn p s).request =
    s.request := by simp [execPollTurn]

/-! `initConclude`. -/

@[simp] theorem initConclude_opr (p : Config.Params) (s : State) : (initConclude p s).opr = s.opr := by simp [initConclude]
@[simp] theorem initConclude_res (p : Config.Params) (s : State) : (initConclude p s).res =
    { s.res with val := s.bus.rx, status := initStatus p s.bus.rx } := by simp [initConclude]
@[simp] theorem initConclude_hid (p : Config.Params) (s : State) : (initConclude p s).hid = s.hid := by simp [initConclude]
@[simp] theorem initConclude_ctl (p : Config.Params) (s : State) : (initConclude p s).ctl = s.ctl := by simp [initConclude]
@[simp] theorem initConclude_bus (p : Config.Params) (s : State) : (initConclude p s).bus = s.bus := by simp [initConclude]
@[simp] theorem initConclude_request (p : Config.Params) (s : State) : (initConclude p s).request =
    s.request := by simp [initConclude]

/-! `goto`. -/

@[simp] theorem goto_opr (q : Seq) (s : State) : (goto q s).opr = s.opr := by simp [goto]
@[simp] theorem goto_res (q : Seq) (s : State) : (goto q s).res = s.res := by simp [goto]
@[simp] theorem goto_hid (q : Seq) (s : State) : (goto q s).hid = s.hid := by simp [goto]
@[simp] theorem goto_ctl (q : Seq) (s : State) : (goto q s).ctl = { s.ctl with seq := q } := by simp [goto]
@[simp] theorem goto_bus (q : Seq) (s : State) : (goto q s).bus = s.bus := by simp [goto]
@[simp] theorem goto_request (q : Seq) (s : State) : (goto q s).request = s.request := by simp [goto]

/-! `provide`. -/

@[simp] theorem provide_opr (bs : List Byte) (s : State) : (provide bs s).opr = s.opr := by simp [provide]
@[simp] theorem provide_res (bs : List Byte) (s : State) : (provide bs s).res = s.res := by simp [provide]
@[simp] theorem provide_hid (bs : List Byte) (s : State) : (provide bs s).hid = s.hid := by simp [provide]
@[simp] theorem provide_ctl (bs : List Byte) (s : State) : (provide bs s).ctl = s.ctl := by simp [provide]
@[simp] theorem provide_bus (bs : List Byte) (s : State) : (provide bs s).bus = { s.bus with answers := bs } := by simp [provide]
@[simp] theorem provide_request (bs : List Byte) (s : State) : (provide bs s).request = s.request := by simp [provide]

end Sys2Proof.Machine
end

