-- ==== Sys2Proof/Laws/Bus.lean ====
section
/-! SUPPORT. The bus primitives and the sequences over them, once in full: what each leaves as a whole state, and which byte a
read returns. -/

namespace Sys2Proof.Machine

open Sys2Proof.Safety

/-- States that agree on every group of registers are equal. -/
theorem state_eq {s t : State} (ho : s.opr = t.opr) (hr : s.res = t.res) (hh : s.hid = t.hid) (hc : s.ctl = t.ctl)
    (hb : s.bus = t.bus) (hq : s.request = t.request) : s = t := by
  obtain ⟨a, b, c, d, e, f⟩ := s
  obtain ⟨a', b', c', d', e', f'⟩ := t
  simp only at ho hr hh hc hb hq
  subst ho hr hh hc hb hq
  rfl

/-- The register address that a read's address byte carries (R64). -/
@[simp] theorem addressField_readAddressByte (a : Byte) : addressField (readAddressByte a) = a.setWidth 6 := by
  revert a; decide

/-- The register address that a write's address byte carries (R64). -/
@[simp] theorem addressField_writeAddressByte (a : Byte) : addressField (writeAddressByte a) = a.setWidth 6 := by
  revert a; decide

@[simp] theorem setWidth_byteOfAddr (a : RegAddr) : (byteOfAddr a).setWidth 6 = a := by
  revert a; decide

/-- An answer the environment has ready is the next one read. -/
theorem nextAnswer_of_cons {b : Bus} {v : Byte} {rest : List Byte} (h : b.answers = v :: rest) : nextAnswer b = v := by
  simp [nextAnswer, h]

/-- With no answer ready the next byte is the free value. -/
theorem nextAnswer_of_nil {b : Bus} (h : b.answers = []) : nextAnswer b = Config.oracle b.reads := by
  simp [nextAnswer, h]

/-- What `BusRead` does. -/
theorem busRead_eq (p : Config.Params) (a : Byte) (s : State) : busRead p a s = { s with bus := afterRead (a.setWidth 6) s.bus } :=
  state_eq (by simp) (by simp) (by simp) (by simp) (by simp) (by simp)

/-- What `BusWrite` does. -/
theorem busWrite_eq (a v : Byte) (s : State) : busWrite a v s = { s with bus := afterWrite (a.setWidth 6) v s.bus } :=
  state_eq (by simp) (by simp) (by simp) (by simp) (by simp) (by simp)

/-- What `SetBits` does (R144). -/
theorem setBits_eq (p : Config.Params) (a m : Byte) (s : State) : setBits p a m s = { s with
    hid := { s.hid with tmp := nextAnswer s.bus },
    bus := afterWrite (a.setWidth 6) (nextAnswer s.bus ||| m) (afterRead (a.setWidth 6) s.bus) } :=
  state_eq (by simp) (by simp) (by simp) (by simp) (by simp) (by simp)

/-- What `ClearBits` does (R145). -/
theorem clearBits_eq (p : Config.Params) (a m : Byte) (s : State) : clearBits p a m s = { s with
    hid := { s.hid with tmp := nextAnswer s.bus },
    bus := afterWrite (a.setWidth 6) (nextAnswer s.bus &&& ~~~m) (afterRead (a.setWidth 6) s.bus) } :=
  state_eq (by simp) (by simp) (by simp) (by simp) (by simp) (by simp)

/-! ### Host operations. -/

/-- A host operation started while another runs (R302). -/
theorem hostOperation_of_busy {q : Seq} {body : State → State} {s : State} (h : s.ctl.busy = true) :
    hostOperation q body s = .fault .overlap := by
  simp [hostOperation, h]

/-- A host operation started while none runs. -/
theorem hostOperation_of_ready {q : Seq} {body : State → State} {s : State} (h : s.ctl.busy = false) :
    hostOperation q body s = .next (finish (body (takeStart q s))) := by
  simp [hostOperation, h]

/-- The end of an operation whose body left the handshake as the start put it. -/
theorem finish_of_started {t : State} {q : Seq} (h : t.ctl = { start := false, busy := true, done := false, seq := q }) :
    (finish t).ctl = endedControl := by
  simp [h, endedControl]

/-! ### The FIFO writes. -/

theorem byteAt_eq_getElem {n : Nat} (v : Vector Byte n) (k : Nat) (h : k < n) : byteAt v k = v[k] := by
  simp [byteAt, h]

theorem firstBytes_length {n : Nat} (v : Vector Byte n) (k : Nat) (h : k ≤ n) : (firstBytes v k).length = k := by
  simp [firstBytes, h]

theorem firstBytes_succ {n : Nat} (v : Vector Byte n) (k : Nat) (h : k < n) :
    firstBytes v (k + 1) = firstBytes v k ++ [byteAt v k] := by
  simp [firstBytes, byteAt, h, List.take_add_one]

/-- What a FIFO-write loop does from index `j` on, one turn for each byte. -/
theorem fifoPushes_spec (k : Nat) : ∀ (s : State), s.hid.i.toNat + k ≤ 64 →
    (fifoPushes k s).opr = s.opr ∧ (fifoPushes k s).res = s.res ∧ (fifoPushes k s).ctl = s.ctl ∧
    (fifoPushes k s).request = s.request ∧
    (fifoPushes k s).hid = { s.hid with i := s.hid.i + BitVec.ofNat 7 k } ∧
    (fifoPushes k s).bus.rx = s.bus.rx ∧ (fifoPushes k s).bus.answers = s.bus.answers ∧
    (fifoPushes k s).bus.reads = s.bus.reads ∧
    (fifoPushes k s).bus.cs = (if k = 0 then s.bus.cs else false) ∧
    (fifoPushes k s).bus.trace = s.bus.trace ++
      fifoWrites ((List.range k).map fun j => byteAt s.hid.frame (s.hid.i.toNat + j)) := by
  induction k with
  | zero => intro s _; simp [fifoPushes, fifoWrites]
  | succ k ih =>
    intro s h
    have hi : (s.hid.i + 1).toNat = s.hid.i.toNat + 1 := by
      rw [BitVec.toNat_add]; simp; omega
    have := ih (fifoPush s) (by simp only [fifoPush_hid]; omega)
    obtain ⟨h1, h2, h3, h4, h5, h6, h7, h8, h9, h10⟩ := this
    simp only [fifoPushes]
    refine ⟨by simp [h1], by simp [h2], by simp [h3], by simp [h4], ?_, by simp [h6], by simp [h7], by simp [h8], ?_, ?_⟩
    · rw [h5]; simp only [fifoPush_hid]
      congr 1
      rw [BitVec.add_assoc]; congr 1
      apply BitVec.eq_of_toNat_eq; simp [BitVec.toNat_add]; omega
    · rw [h9]; split <;> simp
    · rw [h10]; simp only [fifoPush_hid, hi, fifoPush_bus, afterWrite_trace, fifoWrites, List.range_succ_eq_map,
        List.map_cons, List.map_map, List.append_assoc]
      simp only [addressField_writeAddressByte, List.singleton_append]
      congr 2
      apply List.map_congr_left
      intro j _
      simp [Function.comp, Nat.add_assoc, Nat.add_comm 1 j]

/-- What the loop `for I from 0 to k-1, BusWrite(0x09, FRAME[I])` does. -/
theorem fifoWrite_spec (k : Nat) (s : State) (h : k ≤ 64) :
    (fifoWrite k s).opr = s.opr ∧ (fifoWrite k s).res = s.res ∧ (fifoWrite k s).ctl = s.ctl ∧
    (fifoWrite k s).request = s.request ∧ (fifoWrite k s).hid = { s.hid with i := BitVec.ofNat 7 k } ∧
    (fifoWrite k s).bus.rx = s.bus.rx ∧ (fifoWrite k s).bus.answers = s.bus.answers ∧
    (fifoWrite k s).bus.reads = s.bus.reads ∧
    (fifoWrite k s).bus.cs = (if k = 0 then s.bus.cs else false) ∧
    (fifoWrite k s).bus.trace = s.bus.trace ++ fifoWrites (firstBytes s.hid.frame k) := by
  obtain ⟨h1, h2, h3, h4, h5, h6, h7, h8, h9, h10⟩ := fifoPushes_spec k (setI 0 s) (by simpa using h)
  simp only [fifoWrite]
  refine ⟨h1.trans (by simp), h2.trans (by simp), h3.trans (by simp), h4.trans (by simp), h5.trans (by simp),
    h6.trans (by simp), h7.trans (by simp), h8.trans (by simp), h9.trans (by simp), ?_⟩
  · rw [h10]
    simp only [setI_bus, setI_hid, fifoWrites]
    congr 2
    clear h1 h2 h3 h4 h5 h6 h7 h8 h9 h10
    induction k with
    | zero => simp [firstBytes]
    | succ k ih => rw [List.range_succ, List.map_append, ih (by omega), firstBytes_succ _ _ (by omega)]; simp

end Sys2Proof.Machine
end

