-- ==== Sys2Proof/Laws/Polls.lean ====
section
/-! SUPPORT. The loops that wait for the PCD: each once as everything it can do whatever the PCD answers (`_cases`), and once as
what it does on answers the environment has ready (`_run`). -/

namespace Sys2Proof.Machine

open Sys2Proof.Safety

theorem polls_nil (a : RegAddr) (ms : Nat) : polls a ms [] = [] := rfl

theorem polls_cons (a : RegAddr) (ms : Nat) (b : Byte) (bs : List Byte) :
    polls a ms (b :: bs) = [.rd a b, .delay ms] ++ polls a ms bs := rfl

/-- The counter after one decrement. -/
theorem toNat_sub_one {c : BitVec 16} {f : Nat} (h : c.toNat = f + 1) : (c - 1).toNat = f := by
  have := c.isLt
  rw [BitVec.toNat_sub]; simp; omega

theorem eq_ofNat_of_toNat {c : BitVec 16} {f : Nat} (h : c.toNat = f) : c = BitVec.ofNat 16 f := by
  apply BitVec.eq_of_toNat_eq; subst h; simp

/-- Everything the CRC poll can do: the bytes `quiet` without the done flag, then the byte `d` that ends it, by the flag or by the
counter (R162). -/
theorem crcPoll_cases (p : Config.Params) (f : Nat) : ∀ s : State, s.hid.cnt.toNat = f + 1 →
    ∃ (quiet : List Byte) (d : Byte), quiet.length ≤ f ∧ (∀ b ∈ quiet, anyBit b p.crcDone = false) ∧
      (anyBit d p.crcDone = true ∨ quiet.length = f) ∧
      (crcPoll p (f + 1) s).opr = s.opr ∧ (crcPoll p (f + 1) s).res = s.res ∧ (crcPoll p (f + 1) s).ctl = s.ctl ∧
      (crcPoll p (f + 1) s).request = s.request ∧
      (crcPoll p (f + 1) s).hid = { s.hid with n := d, cnt := BitVec.ofNat 16 (f - quiet.length) } ∧
      (crcPoll p (f + 1) s).bus.cs = false ∧ (crcPoll p (f + 1) s).bus.rx = d ∧
      (crcPoll p (f + 1) s).bus.reads = s.bus.reads + quiet.length + 1 ∧
      (crcPoll p (f + 1) s).bus.answers = s.bus.answers.drop (quiet.length + 1) ∧
      (crcPoll p (f + 1) s).bus.trace = s.bus.trace ++ (quiet ++ [d]).map (.rd (p.regCrcirq.setWidth 6)) := by
  induction f with
  | zero =>
    intro s h
    have hc : (s.hid.cnt - 1).toNat = 0 := toNat_sub_one h
    refine ⟨[], nextAnswer s.bus, by simp, by simp, by simp, ?_⟩
    have hd : crcPollDone p (crcPollTurn p s).hid = true := by
      simp only [crcPollTurn_hid, crcPollDone, eq_ofNat_of_toNat hc]; simp
    simp only [crcPoll, hd, if_true]
    refine ⟨by simp, by simp, by simp, by simp, ?_, by simp, by simp, by simp, by simp, by simp⟩
    simp only [crcPollTurn_hid, eq_ofNat_of_toNat hc]; simp
  | succ f ih =>
    intro s h
    have hc : (s.hid.cnt - 1).toNat = f + 1 := toNat_sub_one h
    have hlt := s.hid.cnt.isLt
    by_cases hd : anyBit (nextAnswer s.bus) p.crcDone = true
    · have hd' : crcPollDone p (crcPollTurn p s).hid = true := by simp [crcPollDone, hd]
      refine ⟨[], nextAnswer s.bus, by simp, by simp, Or.inl hd, ?_⟩
      rw [crcPoll]
      simp only [hd', if_true]
      refine ⟨by simp, by simp, by simp, by simp, ?_, by simp, by simp, by simp, by simp, by simp⟩
      simp only [crcPollTurn_hid, eq_ofNat_of_toNat hc]; simp
    · have hd' : crcPollDone p (crcPollTurn p s).hid = false := by
        simp only [crcPollDone, crcPollTurn_hid, Bool.or_eq_false_iff]
        refine ⟨?_, by simpa using hd⟩
        simp only [beq_eq_false_iff_ne, ne_eq]
        intro h0; rw [h0] at hc; simp at hc
      obtain ⟨quiet, d, h1, h2, h3, h4, h5, h6, h7, h8, h9, h10, h11, h12, h13⟩ := ih (crcPollTurn p s) (by simpa using hc)
      rw [crcPoll]
      simp only [hd', Bool.false_eq_true, if_false]
      refine ⟨nextAnswer s.bus :: quiet, d, by simpa using h1, ?_, by simpa using h3, by simp [h4], by simp [h5], by simp [h6],
        by simp [h7], ?_, h9, h10, ?_, ?_, ?_⟩
      · intro b hb
        rcases List.mem_cons.mp hb with rfl | hb
        · simpa using hd
        · exact h2 b hb
      · rw [h8]; simp
      · rw [h11]; simp; omega
      · rw [h12]; simp
      · rw [h13]; simp

/-- The CRC poll on ready answers. -/
theorem crcPoll_run (p : Config.Params) (quiet : List Byte) : ∀ (f : Nat) (s : State) (d : Byte) (rest : List Byte),
    s.hid.cnt.toNat = f + 1 → s.bus.answers = quiet ++ d :: rest → quiet.length ≤ f →
    (∀ b ∈ quiet, anyBit b p.crcDone = false) → (anyBit d p.crcDone = true ∨ quiet.length = f) →
    crcPoll p (f + 1) s = { s with
      hid := { s.hid with n := d, cnt := BitVec.ofNat 16 (f - quiet.length) },
      bus := { cs := false, rx := d, answers := rest, reads := s.bus.reads + quiet.length + 1,
               trace := s.bus.trace ++ (quiet ++ [d]).map (.rd (p.regCrcirq.setWidth 6)) } } := by
  induction quiet with
  | nil =>
    intro f s d rest h ha _ _ hor
    have hc : (s.hid.cnt - 1).toNat = f := toNat_sub_one h
    have hn : nextAnswer s.bus = d := nextAnswer_of_cons ha
    have hd : crcPollDone p (crcPollTurn p s).hid = true := by
      simp only [crcPollTurn_hid, crcPollDone, hn, Bool.or_eq_true]
      rcases hor with hor | hor
      · exact Or.inr hor
      · left; simp only [List.length_nil] at hor; subst hor
        rw [eq_ofNat_of_toNat hc]; rfl
    simp only [crcPoll, hd, if_true]
    refine state_eq (by simp) (by simp) ?_ (by simp) ?_ (by simp)
    · simp only [crcPollTurn_hid, hn, eq_ofNat_of_toNat hc]; simp
    · simp [afterRead, hn, ha]
  | cons b quiet ih =>
    intro f s d rest h ha hl hq hor
    obtain ⟨g, rfl⟩ : ∃ g, f = g + 1 := ⟨f - 1, by simp only [List.length_cons] at hl; omega⟩
    have hc : (s.hid.cnt - 1).toNat = g + 1 := toNat_sub_one h
    have hn : nextAnswer s.bus = b := nextAnswer_of_cons ha
    have hd : crcPollDone p (crcPollTurn p s).hid = false := by
      simp only [crcPollTurn_hid, crcPollDone, hn, Bool.or_eq_false_iff]
      refine ⟨?_, hq b (by simp)⟩
      simp only [beq_eq_false_iff_ne, ne_eq]
      intro h0; rw [h0] at hc; simp at hc
    have := ih g (crcPollTurn p s) d rest (by simpa using hc) (by simp [ha]) (by simpa using hl)
      (fun c hc => hq c (by simp [hc])) (by simpa using hor)
    rw [crcPoll]
    simp only [hd, Bool.false_eq_true, if_false, this]
    refine state_eq (by simp) (by simp) (by simp) (by simp) ?_ (by simp)
    simp [hn]; omega

/-- Whether the byte `b` ends the executor poll under the done group `w` (R188). -/
def execEvent (p : Config.Params) (w b : Byte) : Bool := anyBit b p.timerIrq || anyBit b w

/-- Everything the executor poll can do: the bytes `quiet` without an event, each with its delay, then the byte `d` that ends it,
by an event or by the counter (R188). -/
theorem execPoll_cases (p : Config.Params) (f : Nat) : ∀ s : State, s.hid.cnt.toNat = f + 1 →
    ∃ (quiet : List Byte) (d : Byte), quiet.length ≤ f ∧ (∀ b ∈ quiet, execEvent p s.hid.waitirq b = false) ∧
      (execEvent p s.hid.waitirq d = true ∨ quiet.length = f) ∧
      (execPoll p (f + 1) s).opr = s.opr ∧ (execPoll p (f + 1) s).res = s.res ∧ (execPoll p (f + 1) s).ctl = s.ctl ∧
      (execPoll p (f + 1) s).request = s.request ∧
      (execPoll p (f + 1) s).hid = { s.hid with n := d, cnt := BitVec.ofNat 16 (f - quiet.length) } ∧
      (execPoll p (f + 1) s).bus.cs = false ∧ (execPoll p (f + 1) s).bus.rx = d ∧
      (execPoll p (f + 1) s).bus.reads = s.bus.reads + quiet.length + 1 ∧
      (execPoll p (f + 1) s).bus.answers = s.bus.answers.drop (quiet.length + 1) ∧
      (execPoll p (f + 1) s).bus.trace = s.bus.trace ++ polls (p.regIrqst.setWidth 6) 10 quiet ++
        [.rd (p.regIrqst.setWidth 6) d] := by
  induction f with
  | zero =>
    intro s h
    have hc : (s.hid.cnt - 1).toNat = 0 := toNat_sub_one h
    refine ⟨[], nextAnswer s.bus, by simp, by simp, by simp, ?_⟩
    have hd : execPollDone p (execPollTurn p s).hid = true := by
      simp only [execPollTurn_hid, execPollDone, eq_ofNat_of_toNat hc]; simp
    simp only [execPoll, hd, if_true]
    refine ⟨by simp, by simp, by simp, by simp, ?_, by simp, by simp, by simp, by simp, by simp [polls_nil]⟩
    simp only [execPollTurn_hid, eq_ofNat_of_toNat hc]; simp
  | succ f ih =>
    intro s h
    have hc : (s.hid.cnt - 1).toNat = f + 1 := toNat_sub_one h
    have hlt := s.hid.cnt.isLt
    by_cases hd : execEvent p s.hid.waitirq (nextAnswer s.bus) = true
    · have hd' : execPollDone p (execPollTurn p s).hid = true := by
        simp only [execEvent] at hd
        simp only [execPollDone, execPollTurn_hid, Bool.or_assoc, hd, Bool.or_true]
      refine ⟨[], nextAnswer s.bus, by simp, by simp, Or.inl hd, ?_⟩
      rw [execPoll]
      simp only [hd', if_true]
      refine ⟨by simp, by simp, by simp, by simp, ?_, by simp, by simp, by simp, by simp, by simp [polls_nil]⟩
      simp only [execPollTurn_hid, eq_ofNat_of_toNat hc]; simp
    · have hd' : execPollDone p (execPollTurn p s).hid = false := by
        have hd2 : execEvent p s.hid.waitirq (nextAnswer s.bus) = false := by simpa using hd
        simp only [execEvent] at hd2
        simp only [execPollDone, execPollTurn_hid, Bool.or_assoc, hd2, Bool.or_false]
        simp only [beq_eq_false_iff_ne, ne_eq]
        intro h0; rw [h0] at hc; simp at hc
      obtain ⟨quiet, d, h1, h2, h3, h4, h5, h6, h7, h8, h9, h10, h11, h12, h13⟩ :=
        ih (delay execPollDelayMs (execPollTurn p s)) (by simpa using hc)
      rw [execPoll]
      simp only [hd', Bool.false_eq_true, if_false]
      refine ⟨nextAnswer s.bus :: quiet, d, by simpa using h1, ?_, by simpa using h3, by simp [h4], by simp [h5], by simp [h6],
        by simp [h7], ?_, h9, h10, ?_, ?_, ?_⟩
      · intro b hb
        rcases List.mem_cons.mp hb with rfl | hb
        · simpa using hd
        · simpa using h2 b hb
      · rw [h8]; simp
      · rw [h11]; simp; omega
      · rw [h12]; simp
      · rw [h13]; simp [polls_cons, execPollDelayMs]

/-- The executor poll on ready answers. -/
theorem execPoll_run (p : Config.Params) (quiet : List Byte) : ∀ (f : Nat) (s : State) (d : Byte) (rest : List Byte),
    s.hid.cnt.toNat = f + 1 → s.bus.answers = quiet ++ d :: rest → quiet.length ≤ f →
    (∀ b ∈ quiet, execEvent p s.hid.waitirq b = false) → (execEvent p s.hid.waitirq d = true ∨ quiet.length = f) →
    execPoll p (f + 1) s = { s with
      hid := { s.hid with n := d, cnt := BitVec.ofNat 16 (f - quiet.length) },
      bus := { cs := false, rx := d, answers := rest, reads := s.bus.reads + quiet.length + 1,
               trace := s.bus.trace ++ polls (p.regIrqst.setWidth 6) 10 quiet ++ [.rd (p.regIrqst.setWidth 6) d] } } := by
  induction quiet with
  | nil =>
    intro f s d rest h ha _ _ hor
    have hc : (s.hid.cnt - 1).toNat = f := toNat_sub_one h
    have hn : nextAnswer s.bus = d := nextAnswer_of_cons ha
    have hd : execPollDone p (execPollTurn p s).hid = true := by
      simp only [execPollTurn_hid, execPollDone, hn, Bool.or_eq_true, Bool.or_assoc]
      rcases hor with hor | hor
      · simp only [execEvent, Bool.or_eq_true] at hor; exact Or.inr hor
      · left; simp only [List.length_nil] at hor; subst hor
        rw [eq_ofNat_of_toNat hc]; rfl
    simp only [execPoll, hd, if_true]
    refine state_eq (by simp) (by simp) ?_ (by simp) ?_ (by simp)
    · simp only [execPollTurn_hid, hn, eq_ofNat_of_toNat hc]; simp
    · simp [afterRead, hn, ha, polls_nil]
  | cons b quiet ih =>
    intro f s d rest h ha hl hq hor
    obtain ⟨g, rfl⟩ : ∃ g, f = g + 1 := ⟨f - 1, by simp only [List.length_cons] at hl; omega⟩
    have hc : (s.hid.cnt - 1).toNat = g + 1 := toNat_sub_one h
    have hn : nextAnswer s.bus = b := nextAnswer_of_cons ha
    have hd : execPollDone p (execPollTurn p s).hid = false := by
      have hb := hq b (by simp)
      simp only [execEvent] at hb
      simp only [execPollTurn_hid, execPollDone, hn, Bool.or_assoc, hb, Bool.or_false]
      simp only [beq_eq_false_iff_ne, ne_eq]
      intro h0; rw [h0] at hc; simp at hc
    have := ih g (delay execPollDelayMs (execPollTurn p s)) d rest (by simpa using hc) (by simp [ha]) (by simpa using hl)
      (fun c hc => by simpa using hq c (by simp [hc])) (by simpa using hor)
    rw [execPoll]
    simp only [hd, Bool.false_eq_true, if_false, this]
    refine state_eq (by simp) (by simp) (by simp) (by simp) ?_ (by simp)
    simp [hn, polls_cons, execPollDelayMs]; omega

/-- Everything a drain loop of `k` turns can do, whatever the PCD answers. -/
theorem drains_cases (p : Config.Params) (k : Nat) : ∀ s : State,
    ∃ data : List Byte, data.length = k ∧
      (drains p k s).opr = s.opr ∧ (drains p k s).res = s.res ∧ (drains p k s).ctl = s.ctl ∧ (drains p k s).request = s.request ∧
      (∃ x, (drains p k s).hid = { s.hid with xbuf := x, i := s.hid.i + BitVec.ofNat 7 k }) ∧
      (drains p k s).bus.cs = (if k = 0 then s.bus.cs else false) ∧
      (drains p k s).bus.reads = s.bus.reads + k ∧ (drains p k s).bus.answers = s.bus.answers.drop k ∧
      (drains p k s).bus.trace = s.bus.trace ++ data.map (.rd 0x09) := by
  induction k with
  | zero => intro s; exact ⟨[], rfl, rfl, rfl, rfl, rfl, ⟨s.hid.xbuf, by simp [drains]⟩, by simp [drains]⟩
  | succ k ih =>
    intro s
    obtain ⟨data, h1, h2, h3, h4, h5, ⟨x, h6⟩, h7, h8, h9, h10⟩ := ih (drainOne p s)
    refine ⟨nextAnswer s.bus :: data, by simp [h1], by simp [drains, h2], by simp [drains, h3], by simp [drains, h4],
      by simp [drains, h5], ⟨x, ?_⟩, ?_, ?_, ?_, ?_⟩
    · rw [drains, h6]; simp only [drainOne_hid]
      congr 1
      rw [BitVec.add_assoc]; congr 1
      apply BitVec.eq_of_toNat_eq; simp [BitVec.toNat_add]; omega
    · rw [drains, h7]; split <;> simp
    · rw [drains, h8]; simp; omega
    · rw [drains, h9]; simp
    · rw [drains, h10]; simp [regFifodata]

/-- What a drain loop does on ready answers, from an index on. -/
theorem drains_run (p : Config.Params) (data : List Byte) : ∀ (s : State) (rest : List Byte),
    s.bus.answers = data ++ rest → s.hid.i.toNat + data.length ≤ 16 →
    drains p data.length s = { s with
      hid := { s.hid with i := s.hid.i + BitVec.ofNat 7 data.length, xbuf := (drains p data.length s).hid.xbuf },
      bus := { cs := if data.length = 0 then s.bus.cs else false, rx := data.getLastD s.bus.rx, answers := rest,
               reads := s.bus.reads + data.length, trace := s.bus.trace ++ data.map (.rd 0x09) } } ∧
    (∀ j (hj : j < 16), (drains p data.length s).hid.xbuf[j] =
      if s.hid.i.toNat ≤ j then data.getD (j - s.hid.i.toNat) s.hid.xbuf[j] else s.hid.xbuf[j]) := by
  induction data with
  | nil =>
    intro s rest ha _
    simp only [List.nil_append] at ha
    refine ⟨state_eq (by simp [drains]) (by simp [drains]) (by simp [drains]) (by simp [drains]) ?_ (by simp [drains]), ?_⟩
    · simp [drains, ← ha]
    · intro j hj; simp [drains]
  | cons b data ih =>
    intro s rest ha hl
    simp only [List.length_cons] at hl
    have hn : nextAnswer s.bus = b := nextAnswer_of_cons ha
    have hi : (s.hid.i + 1).toNat = s.hid.i.toNat + 1 := by
      rw [BitVec.toNat_add]; simp; omega
    obtain ⟨h1, h2⟩ := ih (drainOne p s) rest (by simp [ha]) (by simp only [drainOne_hid, hi]; omega)
    simp only [List.length_cons, drains]
    refine ⟨?_, ?_⟩
    · rw [h1]
      refine state_eq (by simp) (by simp) ?_ (by simp) ?_ (by simp)
      · simp only [drainOne_hid]
        congr 1
        rw [BitVec.add_assoc]; congr 1
        apply BitVec.eq_of_toNat_eq; simp [BitVec.toNat_add]; omega
      · simp only [drainOne_bus, afterRead_cs, afterRead_rx, hn]
        simp [hn, regFifodata, List.getLast?_cons]; omega
    · intro j hj
      rw [h2 j hj]
      simp only [drainOne_hid, hi, hn]
      rcases Nat.lt_trichotomy j s.hid.i.toNat with hlt | heq | hgt
      · rw [if_neg (by omega), if_neg (by omega), Vector.getElem_setIfInBounds_ne (by omega) (by omega)]
      · subst heq; simp
      · rw [if_pos (by omega), if_pos (by omega), Vector.getElem_setIfInBounds_ne (by omega) (by omega)]
        obtain ⟨m, hm⟩ : ∃ m, j - s.hid.i.toNat = m + 1 := ⟨j - s.hid.i.toNat - 1, by omega⟩
        rw [hm, show j - (s.hid.i.toNat + 1) = m by omega]; simp

end Sys2Proof.Machine
end

