-- ==== Sys2Proof/Laws/Frames.lean ====
section
/-! SUPPORT. What the sequences `Crc` and `Exec` and the loops of the operations leave alone, and how many events they add,
whatever the PCD answers. -/

namespace Sys2Proof.Machine

open Sys2Proof.Safety

/-- The groups of registers that no sequence writes. -/
def Keeps (s t : State) : Prop := t.opr = s.opr ∧ t.res = s.res ∧ t.ctl = s.ctl ∧ t.request = s.request

theorem Keeps.refl (s : State) : Keeps s s := ⟨rfl, rfl, rfl, rfl⟩

theorem Keeps.trans {s t u : State} (h : Keeps s t) (k : Keeps t u) : Keeps s u :=
  ⟨k.1.trans h.1, k.2.1.trans h.2.1, k.2.2.1.trans h.2.2.1, k.2.2.2.trans h.2.2.2⟩

/-- The trace grows by at most `r` bus transactions and `d` delays. -/
def Grows (r d : Nat) (s t : State) : Prop :=
  ∃ evs, t.bus.trace = s.bus.trace ++ evs ∧ transactions evs ≤ r ∧ delays evs ≤ d

@[simp] theorem isTransaction_rd (a : RegAddr) (v : Byte) : isTransaction (.rd a v) = true := rfl
@[simp] theorem isTransaction_wr (a : RegAddr) (v : Byte) : isTransaction (.wr a v) = true := rfl
@[simp] theorem isTransaction_delay (ms : Nat) : isTransaction (.delay ms) = false := rfl

@[simp] theorem transactions_append (a b : List Event) : transactions (a ++ b) = transactions a + transactions b := by
  simp [transactions]

@[simp] theorem delays_append (a b : List Event) : delays (a ++ b) = delays a + delays b := by
  simp [delays]

@[simp] theorem transactions_reads (a : RegAddr) (bs : List Byte) : transactions (bs.map (.rd a)) = bs.length := by
  induction bs with
  | nil => rfl
  | cons b bs ih => simp only [List.map_cons, List.length_cons, ← ih]; simp [transactions, List.countP_cons]

@[simp] theorem delays_reads (a : RegAddr) (bs : List Byte) : delays (bs.map (.rd a)) = 0 := by
  simp [delays, List.countP_eq_zero]

@[simp] theorem transactions_fifoWrites (bs : List Byte) : transactions (fifoWrites bs) = bs.length := by
  induction bs with
  | nil => rfl
  | cons b bs ih => rw [List.length_cons, ← ih]; simp [fifoWrites, transactions, List.countP_cons]

@[simp] theorem delays_fifoWrites (bs : List Byte) : delays (fifoWrites bs) = 0 := by
  simp [fifoWrites, delays, List.countP_eq_zero]

@[simp] theorem transactions_polls (a : RegAddr) (ms : Nat) (bs : List Byte) : transactions (polls a ms bs) = bs.length := by
  induction bs with
  | nil => rfl
  | cons b bs ih => rw [polls_cons, transactions_append, ih]; simp [transactions, List.countP_cons]; omega

@[simp] theorem delays_polls (a : RegAddr) (ms : Nat) (bs : List Byte) : delays (polls a ms bs) = bs.length := by
  induction bs with
  | nil => rfl
  | cons b bs ih => rw [polls_cons, delays_append, ih]; simp [delays]; omega

theorem Grows.refl (s : State) : Grows 0 0 s s := ⟨[], by simp, by simp [transactions], by simp [delays]⟩

theorem Grows.of_trace {s t : State} (h : t.bus.trace = s.bus.trace) : Grows 0 0 s t :=
  ⟨[], by simp [h], by simp [transactions], by simp [delays]⟩

theorem Grows.trans {r d r' d' : Nat} {s t u : State} (h : Grows r d s t) (k : Grows r' d' t u) : Grows (r + r') (d + d') s u := by
  obtain ⟨a, ha, ha1, ha2⟩ := h
  obtain ⟨b, hb, hb1, hb2⟩ := k
  exact ⟨a ++ b, by rw [hb, ha, List.append_assoc], by rw [transactions_append]; omega, by rw [delays_append]; omega⟩

theorem Grows.mono {r d r' d' : Nat} {s t : State} (h : Grows r d s t) (hr : r ≤ r') (hd : d ≤ d') : Grows r' d' s t := by
  obtain ⟨a, ha, ha1, ha2⟩ := h
  exact ⟨a, ha, by omega, by omega⟩

/-- What a bounded growth says of the events an operation added. -/
theorem Grows.added {r d : Nat} {s t : State} (h : Grows r d s t) : transactions (added s t) ≤ r ∧ delays (added s t) ≤ d := by
  obtain ⟨a, ha, ha1, ha2⟩ := h
  simp [Safety.added, ha, ha1, ha2]

theorem Grows.busRead (p : Config.Params) (a : Byte) (s : State) : Grows 1 0 s (busRead p a s) :=
  ⟨[.rd (a.setWidth 6) (nextAnswer s.bus)], by simp, by simp [transactions, List.countP_cons], by simp [delays]⟩

theorem Grows.busWrite (a v : Byte) (s : State) : Grows 1 0 s (busWrite a v s) :=
  ⟨[.wr (a.setWidth 6) v], by simp, by simp [transactions, List.countP_cons], by simp [delays]⟩

theorem Grows.delay (ms : Nat) (s : State) : Grows 0 1 s (delay ms s) :=
  ⟨[.delay ms], by simp, by simp [transactions], by simp [delays]⟩

theorem Grows.setBits (p : Config.Params) (a m : Byte) (s : State) : Grows 2 0 s (setBits p a m s) :=
  ⟨[.rd (a.setWidth 6) (nextAnswer s.bus), .wr (a.setWidth 6) (nextAnswer s.bus ||| m)], by simp,
    by simp [transactions, List.countP_cons], by simp [delays]⟩

theorem Grows.clearBits (p : Config.Params) (a m : Byte) (s : State) : Grows 2 0 s (clearBits p a m s) :=
  ⟨[.rd (a.setWidth 6) (nextAnswer s.bus), .wr (a.setWidth 6) (nextAnswer s.bus &&& ~~~m)], by simp,
    by simp [transactions, List.countP_cons], by simp [delays]⟩

theorem Grows.fifoWrite (k : Nat) (s : State) (h : k ≤ 64) : Grows k 0 s (fifoWrite k s) :=
  ⟨_, (fifoWrite_spec k s h).2.2.2.2.2.2.2.2.2, by simp [firstBytes_length _ k h], by simp⟩

/-- What the sequence `Crc(k)` can do, whatever the PCD answers: of the hidden registers only `TMP`, `I`, `CNT`, `N`, `C0` and
`C1` change, and at most `262 + k` bus transactions are made (R161, R347). -/
theorem crc_cases (p : Config.Params) (k : Nat) (s : State) (hk : k ≤ 64) :
    Keeps s (crc p k s) ∧ Grows (262 + k) 0 s (crc p k s) ∧ (crc p k s).bus.cs = false ∧
    ∃ tmp n cnt c0 c1, (crc p k s).hid =
      { s.hid with tmp := tmp, i := BitVec.ofNat 7 k, n := n, cnt := cnt, c0 := c0, c1 := c1 } := by
  generalize hs1 : clearBits p p.regCrcirq p.crcDone s = s1
  generalize hs2 : setBits p regFifolevel p.fifoFlush s1 = s2
  generalize hs3 : fifoWrite k s2 = s3
  generalize hs4 : issueCommand cmdCalccrcByte s3 = s4
  generalize hs5 : setCnt (BitVec.ofNat 16 crcPollMax) s4 = s5
  generalize hs6 : crcPoll p crcPollMax s5 = s6
  have hcrc : crc p k s = readC1 p (readC0 p s6) := by
    simp only [crc, hs1, hs2, hs3, hs4, hs5, hs6]
  have g1 : Grows 2 0 s s1 := hs1 ▸ Grows.clearBits p _ _ _
  have g2 : Grows 2 0 s1 s2 := hs2 ▸ Grows.setBits p _ _ _
  have g3 : Grows k 0 s2 s3 := hs3 ▸ Grows.fifoWrite _ _ hk
  have g4 : Grows 1 0 s3 s4 := hs4 ▸ Grows.busWrite _ _ _
  have g5 : Grows 0 0 s4 s5 := Grows.of_trace (by rw [← hs5]; simp)
  obtain ⟨w1, w2, w3, w4, w5, -⟩ := fifoWrite_spec k s2 hk
  rw [hs3] at w1 w2 w3 w4 w5
  obtain ⟨quiet, d, q1, -, -, q4, q5, q6, q7, q8, -, -, -, -, q13⟩ := crcPoll_cases p 254 s5 (by rw [← hs5]; simp [crcPollMax])
  simp only [show 254 + 1 = crcPollMax from rfl, hs6] at q4 q5 q6 q7 q8 q13
  have g6 : Grows 255 0 s5 s6 := ⟨_, q13, by rw [transactions_reads]; simp; omega, by rw [delays_reads]⟩
  have g7 : Grows 1 0 s6 (readC0 p s6) := Grows.mono (Grows.trans (Grows.busRead p p.regCrcLo s6) (Grows.of_trace (by simp)))
    (Nat.le_refl _) (Nat.le_refl _)
  have g8 : Grows 1 0 (readC0 p s6) (readC1 p (readC0 p s6)) :=
    Grows.mono (Grows.trans (Grows.busRead p p.regCrcMid (readC0 p s6)) (Grows.of_trace (by simp))) (Nat.le_refl _) (Nat.le_refl _)
  rw [hcrc]
  refine ⟨⟨?_, ?_, ?_, ?_⟩, (g1.trans (g2.trans (g3.trans (g4.trans (g5.trans (g6.trans (g7.trans g8))))))).mono (by omega) (by omega),
    by simp, ?_⟩
  · simp [q4, ← hs5, ← hs4, w1, ← hs2, ← hs1]
  · simp [q5, ← hs5, ← hs4, w2, ← hs2, ← hs1]
  · simp [q6, ← hs5, ← hs4, w3, ← hs2, ← hs1]
  · simp [q7, ← hs5, ← hs4, w4, ← hs2, ← hs1]
  · simp only [readC1_hid, readC0_hid, q8, ← hs5, setCnt_hid, ← hs4, issueCommand_hid, w5, ← hs2, setBits_hid, ← hs1,
      clearBits_hid]
    exact ⟨_, _, _, _, _, rfl⟩

/-- The drain count never exceeds the cap (R191). -/
theorem drainCount_le (l : Byte) : (drainCount l).toNat ≤ 16 := by
  revert l; decide

/-- What steps 8 and 9 of `Exec` can do. -/
theorem execConclude_cases (p : Config.Params) (s : State) :
    Keeps s (execConclude p s) ∧ Grows (if s.hid.cnt = 0 then 0 else 19) 0 s (execConclude p s) ∧
    (s.bus.cs = false → (execConclude p s).bus.cs = false) ∧
    ∃ e l lastbits i xst xbits xlen xbuf, (execConclude p s).hid =
      { s.hid with e := e, l := l, lastbits := lastbits, i := i, xst := xst, xbits := xbits, xlen := xlen, xbuf := xbuf } ∧
      (s.hid.i.toNat ≤ 64 → i.toNat ≤ 64) ∧ (s.hid.xlen.toNat ≤ 16 → xlen.toNat ≤ 16) := by
  by_cases hc : s.hid.cnt = 0
  · rw [show execConclude p s = s from by simp [execConclude, hc], if_pos hc]
    exact ⟨Keeps.refl s, Grows.refl s, id, _, _, _, _, _, _, _, _, rfl, id, id⟩
  · simp only [execConclude, hc, if_false, execResult]
    generalize ht : execJudge p (readE p s) = t
    have kt : Keeps s t := by rw [← ht]; exact ⟨by simp, by simp, by simp, by simp⟩
    have gt : Grows 1 0 s t := by
      rw [← ht]
      exact Grows.mono (Grows.trans (Grows.busRead p regError s) (Grows.of_trace (by simp))) (Nat.le_refl _) (Nat.le_refl _)
    have ct : t.bus.cs = false := by rw [← ht]; simp
    have ht' : t.hid = { s.hid with e := nextAnswer s.bus, xst := execOutcome p (nextAnswer s.bus) s.hid.n s.hid.irqen } := by
      rw [← ht]; simp
    split
    · refine ⟨kt, gt.mono (by omega) (by omega), fun _ => ct, ?_⟩
      rw [ht']
      exact ⟨_, _, _, _, _, _, _, _, rfl, id, id⟩
    · split
      · simp only [execReceive]
        generalize hu : execCount (readLastbits p (readL p t)) = u
        have ku : Keeps t u := by rw [← hu]; exact ⟨by simp, by simp, by simp, by simp⟩
        have gu : Grows 2 0 t u := by
          rw [← hu]
          have a : Grows 1 0 t (readL p t) := Grows.mono (Grows.trans (Grows.busRead p regFifolevel t) (Grows.of_trace (by simp)))
            (Nat.le_refl _) (Nat.le_refl _)
          have b : Grows 1 0 (readL p t) (readLastbits p (readL p t)) :=
            Grows.mono (Grows.trans (Grows.busRead p regControl (readL p t)) (Grows.of_trace (by simp))) (Nat.le_refl _) (Nat.le_refl _)
          exact (a.trans (b.trans (Grows.of_trace (by simp)))).mono (by omega) (by omega)
        have cu : u.bus.cs = false := by rw [← hu]; simp
        have xu : u.hid.xlen.toNat ≤ 16 := by rw [← hu]; simp [drainCount_le]
        have iu : u.hid.i = 0 := by rw [← hu]; simp
        obtain ⟨data, d1, d2, d3, d4, d5, ⟨x, d6⟩, d7, -, -, d10⟩ := drains_cases p u.hid.xlen.toNat u
        simp only [execDrain]
        refine ⟨kt.trans (ku.trans ⟨d2, d3, d4, d5⟩), ?_, ?_, ?_⟩
        · have gd : Grows 16 0 u (drains p u.hid.xlen.toNat u) := ⟨_, d10, by rw [transactions_reads]; omega, by simp⟩
          exact (gt.trans (gu.trans gd)).mono (by omega) (by omega)
        · intro _; rw [d7]; split <;> simp [cu]
        · rw [d6]
          refine ⟨u.hid.e, u.hid.l, u.hid.lastbits, u.hid.i + BitVec.ofNat 7 u.hid.xlen.toNat, u.hid.xst, u.hid.xbits, u.hid.xlen, x, ?_, ?_, fun _ => xu⟩
          · rw [← hu]; simp [ht']
          · intro _; rw [iu]; simp; omega
      · refine ⟨kt, gt.mono (by omega) (by omega), fun _ => ct, ?_⟩
        rw [ht']
        exact ⟨_, _, _, _, _, _, _, _, rfl, id, id⟩

/-- What the sequence `Exec(cmd)` can do, whatever the PCD answers: the frame, its length and the CRC bytes stay, the counts stay
in range, chip-select is released, and at most `2029 + FLEN` bus transactions and 1999 delays are made (R181, R347). -/
theorem executor_cases (p : Config.Params) (cmd : Byte) (s : State) (hf : s.hid.flen.toNat ≤ 64) :
    Keeps s (executor p cmd s) ∧ Grows (2029 + s.hid.flen.toNat) 1999 s (executor p cmd s) ∧
    (executor p cmd s).bus.cs = false ∧ (executor p cmd s).hid.frame = s.hid.frame ∧
    (executor p cmd s).hid.flen = s.hid.flen ∧ (executor p cmd s).hid.c0 = s.hid.c0 ∧ (executor p cmd s).hid.c1 = s.hid.c1 ∧
    (executor p cmd s).hid.i.toNat ≤ 64 ∧ (executor p cmd s).hid.xlen.toNat ≤ 16 := by
  generalize hs1 : execSetup cmd s = s1
  generalize hs2 : execEnable p s1 = s2
  generalize hs3 : clearIrq p s2 = s3
  generalize hs4 : setBits p regFifolevel p.fifoFlush s3 = s4
  generalize hs5 : issueCommand cmdIdleByte s4 = s5
  generalize hs6 : execFifo s5 = s6
  generalize hs7 : execCommand s6 = s7
  generalize hs8 : execSend p s7 = s8
  generalize hs9 : setCnt (BitVec.ofNat 16 execPollMax) s8 = s9
  generalize hs10 : execPoll p execPollMax s9 = s10
  generalize hs11 : execStop p s10 = s11
  have hex : executor p cmd s = execConclude p s11 := by
    simp only [executor, hs1, hs2, hs3, hs4, hs5, hs6, hs7, hs8, hs9, hs10, hs11]
  have f5 : s5.hid.flen = s.hid.flen := by rw [← hs5, ← hs4, ← hs3, ← hs2, ← hs1]; simp [clearIrq]
  have hf5 : s5.hid.flen.toNat ≤ 64 := by rw [f5]; exact hf
  obtain ⟨w1, w2, w3, w4, w5, -⟩ := fifoWrite_spec _ s5 hf5
  have hs6' : fifoWrite s5.hid.flen.toNat s5 = s6 := hs6
  rw [hs6'] at w1 w2 w3 w4 w5
  have k8 : Keeps s7 s8 ∧ Grows 2 0 s7 s8 ∧ ∃ tmp, s8.hid = { s7.hid with tmp := tmp } := by
    rw [← hs8]; simp only [execSend]
    split
    · exact ⟨⟨by simp, by simp, by simp, by simp⟩, Grows.setBits p _ _ _, _, by simp; rfl⟩
    · exact ⟨Keeps.refl _, (Grows.refl _).mono (by omega) (by omega), s7.hid.tmp, rfl⟩
  obtain ⟨k8, g8, tmp8, h8⟩ := k8
  obtain ⟨quiet, d, q1, -, -, q4, q5, q6, q7, q8, q9, -, -, -, q13⟩ := execPoll_cases p 1999 s9 (by rw [← hs9]; simp [execPollMax])
  simp only [show 1999 + 1 = execPollMax from rfl, hs10] at q4 q5 q6 q7 q8 q9 q13
  obtain ⟨kc, gc, cc, e, l, lb, i, xst, xb, xl, xbuf, hc, ic, xc⟩ := execConclude_cases p s11
  have g1 : Grows 0 0 s s1 := Grows.of_trace (by rw [← hs1]; simp)
  have g2 : Grows 1 0 s1 s2 := hs2 ▸ Grows.busWrite _ _ _
  have g3 : Grows 2 0 s2 s3 := hs3 ▸ Grows.clearBits p _ _ _
  have g4 : Grows 2 0 s3 s4 := hs4 ▸ Grows.setBits p _ _ _
  have g5 : Grows 1 0 s4 s5 := hs5 ▸ Grows.busWrite _ _ _
  have g6 : Grows s.hid.flen.toNat 0 s5 s6 := by rw [← hs6', f5]; exact Grows.fifoWrite _ _ hf
  have g7 : Grows 1 0 s6 s7 := hs7 ▸ Grows.busWrite _ _ _
  have g9 : Grows 0 0 s8 s9 := Grows.of_trace (by rw [← hs9]; simp)
  have g10 : Grows (quiet.length + 1) quiet.length s9 s10 :=
    ⟨polls (p.regIrqst.setWidth 6) 10 quiet ++ [.rd (p.regIrqst.setWidth 6) d], by rw [q13, List.append_assoc],
      by rw [transactions_append, transactions_polls]; simp [transactions],
      by rw [delays_append, delays_polls]; simp [delays]⟩
  have g11 : Grows 2 0 s10 s11 := hs11 ▸ Grows.clearBits p _ _ _
  have hcnt : s11.hid.cnt = BitVec.ofNat 16 (1999 - quiet.length) := by rw [← hs11]; simp [execStop, q8]
  have h9 : s9.hid = { s7.hid with tmp := tmp8, cnt := BitVec.ofNat 16 execPollMax } := by rw [← hs9]; simp [h8]
  have h11 : s11.hid.frame = s.hid.frame ∧ s11.hid.flen = s.hid.flen ∧ s11.hid.c0 = s.hid.c0 ∧ s11.hid.c1 = s.hid.c1 ∧
      s11.hid.i = BitVec.ofNat 7 s5.hid.flen.toNat ∧ s11.hid.xlen = 0 := by
    have a1 : s5.hid = { s1.hid with tmp := s5.hid.tmp } := by rw [← hs5, ← hs4, ← hs3, ← hs2]; simp [clearIrq]
    have a2 : s11.hid = { s10.hid with tmp := nextAnswer s10.bus } := by rw [← hs11]; simp [execStop]
    have a7 : s7.hid = s6.hid := by rw [← hs7]; simp
    rw [a2, q8, h9, a7, w5, a1, ← hs1]
    simp
  obtain ⟨b1, b2, b3, b4, b5, b6⟩ := h11
  rw [hex]
  have kk : Keeps s s11 := by
    refine ⟨?_, ?_, ?_, ?_⟩
    · rw [← hs11]; simp only [execStop, clearBits_opr]
      rw [q4, ← hs9, setCnt_opr, k8.1, ← hs7]; simp [w1, ← hs5, ← hs4, ← hs3, clearIrq, ← hs2, ← hs1]
    · rw [← hs11]; simp only [execStop, clearBits_res]
      rw [q5, ← hs9, setCnt_res, k8.2.1, ← hs7]; simp [w2, ← hs5, ← hs4, ← hs3, clearIrq, ← hs2, ← hs1]
    · rw [← hs11]; simp only [execStop, clearBits_ctl]
      rw [q6, ← hs9, setCnt_ctl, k8.2.2.1, ← hs7]; simp [w3, ← hs5, ← hs4, ← hs3, clearIrq, ← hs2, ← hs1]
    · rw [← hs11]; simp only [execStop, clearBits_request]
      rw [q7, ← hs9, setCnt_request, k8.2.2.2, ← hs7]; simp [w4, ← hs5, ← hs4, ← hs3, clearIrq, ← hs2, ← hs1]
  refine ⟨kk.trans kc, ?_, ?_, ?_, ?_, ?_, ?_, ?_, ?_⟩
  · have := g1.trans (g2.trans (g3.trans (g4.trans (g5.trans (g6.trans (g7.trans (g8.trans (g9.trans (g10.trans (g11.trans gc))))))))))
    refine this.mono ?_ (by omega)
    by_cases hq : quiet.length = 1999
    · rw [hcnt, hq]; simp; omega
    · split <;> omega
  · exact cc (by rw [← hs11]; simp [execStop])
  · rw [hc]; exact b1
  · rw [hc]; exact b2
  · rw [hc]; exact b3
  · rw [hc]; exact b4
  · rw [hc]; exact ic (by rw [b5]; simp; omega)
  · rw [hc]; exact xc (by rw [b6]; simp)

end Sys2Proof.Machine
end

