-- ==== Sys2Proof/Laws/Loops.lean ====
section
/-! SUPPORT. The tick-bounded loops of the two wait operations and the step list of INIT: everything each can do whatever the PCD
answers. -/

namespace Sys2Proof.Machine

open Sys2Proof.Safety

/-- What the loop of WAITPRESENT can do: only `FLAG`, `N`, `CNT` and `TMP` change, and with `CNT` at `c` it makes at most `2c + 2`
bus transactions and `c` delays (R218, R347). -/
theorem waitPresentLoop_cases (p : Config.Params) (f : Nat) : ∀ s : State, s.hid.cnt.toNat < f →
    (waitPresentLoop p f s).opr = s.opr ∧ (waitPresentLoop p f s).ctl = s.ctl ∧ (waitPresentLoop p f s).request = s.request ∧
    (∃ b, (waitPresentLoop p f s).res = { s.res with flag := b }) ∧
    (∃ n cnt tmp, (waitPresentLoop p f s).hid = { s.hid with n := n, cnt := cnt, tmp := tmp }) ∧
    (s.bus.cs = false → (waitPresentLoop p f s).bus.cs = false) ∧
    Grows (2 * s.hid.cnt.toNat + 2) s.hid.cnt.toNat s (waitPresentLoop p f s) := by
  induction f with
  | zero => intro s h; omega
  | succ f ih =>
    intro s h
    by_cases hc : s.hid.cnt = 0
    · rw [show waitPresentLoop p (f + 1) s = setFlag false s from by simp [waitPresentLoop, hc]]
      exact ⟨by simp, by simp, by simp, ⟨false, by simp⟩, ⟨_, _, _, by simp; rfl⟩, by simp,
        (Grows.of_trace (by simp)).mono (by omega) (by omega)⟩
    · obtain ⟨c, hcc⟩ : ∃ c, s.hid.cnt.toNat = c + 1 :=
        ⟨s.hid.cnt.toNat - 1, by
          have : s.hid.cnt.toNat ≠ 0 := fun h0 => hc (BitVec.eq_of_toNat_eq (by simpa using h0))
          omega⟩
      generalize ht : readN p p.regIrqst (busWrite regBitframing p.presentBitframing s) = t
      have gt : Grows 2 0 s t := by
        rw [← ht]
        exact (Grows.trans (Grows.busWrite regBitframing p.presentBitframing s)
          (Grows.trans (Grows.busRead p p.regIrqst _) (Grows.of_trace (by simp)))).mono (by omega) (by omega)
      by_cases hm : p.presentMatch t.hid.n = true
      · rw [show waitPresentLoop p (f + 1) s = setFlag true (clearIrq p t) from by
          rw [waitPresentLoop, if_neg hc]; simp only [ht, hm, if_true]]
        refine ⟨by simp [clearIrq, ← ht], by simp [clearIrq, ← ht], by simp [clearIrq, ← ht], ⟨true, by simp [clearIrq, ← ht]⟩,
          ⟨nextAnswer (busWrite regBitframing p.presentBitframing s).bus, s.hid.cnt, nextAnswer t.bus, ?_⟩, by simp [clearIrq], ?_⟩
        · simp [clearIrq, ← ht]
        · exact (gt.trans ((Grows.clearBits p p.regIrqst p.irqClearMask t).trans (Grows.of_trace (by simp [clearIrq])))).mono (by omega) (by omega)
      · rw [show waitPresentLoop p (f + 1) s = waitPresentLoop p f (countDown (delay presentDelayMs t)) from by
          rw [waitPresentLoop, if_neg hc]; simp only [ht, hm, Bool.false_eq_true, if_false]]
        generalize hu : countDown (delay presentDelayMs t) = u
        have hcu : u.hid.cnt.toNat = c := by
          rw [← hu, ← ht]; simp only [countDown_hid, delay_hid, readN_hid, busWrite_hid]; exact toNat_sub_one hcc
        have gu : Grows 2 1 s u := by
          rw [← hu]
          exact (gt.trans ((Grows.delay presentDelayMs t).trans (Grows.of_trace (by simp)))).mono (by omega) (by omega)
        obtain ⟨h1, h2, h3, ⟨b, h4⟩, ⟨n, cnt, tmp, h5⟩, h6, h7⟩ := ih u (by omega)
        refine ⟨by rw [h1, ← hu, ← ht]; simp, by rw [h2, ← hu, ← ht]; simp, by rw [h3, ← hu, ← ht]; simp,
          ⟨b, by rw [h4, ← hu, ← ht]; simp⟩,
          ⟨n, cnt, tmp, by rw [h5, ← hu, ← ht]; simp⟩, fun _ => h6 (by simp [← hu, ← ht]), ?_⟩
        rw [hcu] at h7
        exact (gu.trans h7).mono (by omega) (by omega)

/-- What the loop of WAITREMOVED can do: only `FLAG`, `N` and `CNT` change, and with `CNT` at `c` it makes at most `c` bus
transactions and `c` delays (R224, R347). -/
theorem waitRemovedLoop_cases (p : Config.Params) (f : Nat) : ∀ s : State, s.hid.cnt.toNat < f →
    (waitRemovedLoop p f s).opr = s.opr ∧ (waitRemovedLoop p f s).ctl = s.ctl ∧ (waitRemovedLoop p f s).request = s.request ∧
    (∃ b, (waitRemovedLoop p f s).res = { s.res with flag := b }) ∧
    (∃ n cnt, (waitRemovedLoop p f s).hid = { s.hid with n := n, cnt := cnt }) ∧
    (s.bus.cs = false → (waitRemovedLoop p f s).bus.cs = false) ∧
    Grows s.hid.cnt.toNat s.hid.cnt.toNat s (waitRemovedLoop p f s) := by
  induction f with
  | zero => intro s h; omega
  | succ f ih =>
    intro s h
    by_cases hc : s.hid.cnt = 0
    · rw [show waitRemovedLoop p (f + 1) s = setFlag false s from by simp [waitRemovedLoop, hc]]
      exact ⟨by simp, by simp, by simp, ⟨false, by simp⟩, ⟨_, _, by simp; rfl⟩, by simp,
        (Grows.of_trace (by simp)).mono (by omega) (by omega)⟩
    · obtain ⟨c, hcc⟩ : ∃ c, s.hid.cnt.toNat = c + 1 :=
        ⟨s.hid.cnt.toNat - 1, by
          have : s.hid.cnt.toNat ≠ 0 := fun h0 => hc (BitVec.eq_of_toNat_eq (by simpa using h0))
          omega⟩
      generalize ht : readN p p.regIrqst s = t
      have gt : Grows 1 0 s t := by
        rw [← ht]
        exact (Grows.trans (Grows.busRead p p.regIrqst s) (Grows.of_trace (by simp))).mono (by omega) (by omega)
      by_cases hm : p.removedMatch t.hid.n = true
      · rw [show waitRemovedLoop p (f + 1) s = setFlag true t from by
          rw [waitRemovedLoop, if_neg hc]; simp only [ht, hm, if_true]]
        refine ⟨by simp [← ht], by simp [← ht], by simp [← ht], ⟨true, by simp [← ht]⟩,
          ⟨nextAnswer s.bus, s.hid.cnt, by simp [← ht]⟩, by simp [← ht], ?_⟩
        exact (gt.trans (Grows.of_trace (by simp))).mono (by omega) (by omega)
      · rw [show waitRemovedLoop p (f + 1) s = waitRemovedLoop p f (countDown (delay removedDelayMs t)) from by
          rw [waitRemovedLoop, if_neg hc]; simp only [ht, hm, Bool.false_eq_true, if_false]]
        generalize hu : countDown (delay removedDelayMs t) = u
        have hcu : u.hid.cnt.toNat = c := by
          rw [← hu, ← ht]; simp only [countDown_hid, delay_hid, readN_hid]; exact toNat_sub_one hcc
        have gu : Grows 1 1 s u := by
          rw [← hu]
          exact (gt.trans ((Grows.delay removedDelayMs t).trans (Grows.of_trace (by simp)))).mono (by omega) (by omega)
        obtain ⟨h1, h2, h3, ⟨b, h4⟩, ⟨n, cnt, h5⟩, h6, h7⟩ := ih u (by omega)
        refine ⟨by rw [h1, ← hu, ← ht]; simp, by rw [h2, ← hu, ← ht]; simp, by rw [h3, ← hu, ← ht]; simp,
          ⟨b, by rw [h4, ← hu, ← ht]; simp⟩,
          ⟨n, cnt, by rw [h5, ← hu, ← ht]; simp⟩, fun _ => h6 (by simp [← hu, ← ht]), ?_⟩
        rw [hcu] at h7
        exact (gu.trans h7).mono (by omega) (by omega)

/-- What the steps of `INIT_SEQUENCE` can do: only `TMP` changes, and the events are as many as `initCost` says (R278, R347). -/
theorem initItems_cases (p : Config.Params) (its : List Config.InitStep) : ∀ s : State,
    Keeps s (initItems p its s) ∧ (∃ tmp, (initItems p its s).hid = { s.hid with tmp := tmp }) ∧
    (s.bus.cs = false → (initItems p its s).bus.cs = false) ∧
    Grows (initCost its).1 (initCost its).2 s (initItems p its s) := by
  induction its with
  | nil => intro s; exact ⟨Keeps.refl s, ⟨s.hid.tmp, rfl⟩, id, Grows.refl s⟩
  | cons it its ih =>
    intro s
    obtain ⟨h1, ⟨tmp, h2⟩, h3, h4⟩ := ih (initItem p it s)
    rw [show initItems p (it :: its) s = initItems p its (initItem p it s) from rfl]
    cases it with
    | w a v =>
      refine ⟨Keeps.trans ⟨by simp [initItem], by simp [initItem], by simp [initItem], by simp [initItem]⟩ h1,
        ⟨tmp, by rw [h2]; simp [initItem]⟩, fun _ => h3 (by simp [initItem]), ?_⟩
      exact ((Grows.busWrite a v s).trans h4).mono (by simp [initCost]; omega) (by simp [initCost])
    | s a m =>
      refine ⟨Keeps.trans ⟨by simp [initItem], by simp [initItem], by simp [initItem], by simp [initItem]⟩ h1,
        ⟨tmp, by rw [h2]; simp [initItem]⟩, fun _ => h3 (by simp [initItem]), ?_⟩
      exact ((Grows.setBits p a m s).trans h4).mono (by simp [initCost]; omega) (by simp [initCost])
    | c a m =>
      refine ⟨Keeps.trans ⟨by simp [initItem], by simp [initItem], by simp [initItem], by simp [initItem]⟩ h1,
        ⟨tmp, by rw [h2]; simp [initItem]⟩, fun _ => h3 (by simp [initItem]), ?_⟩
      exact ((Grows.clearBits p a m s).trans h4).mono (by simp [initCost]; omega) (by simp [initCost])
    | dly ms =>
      refine ⟨Keeps.trans ⟨by simp [initItem], by simp [initItem], by simp [initItem], by simp [initItem]⟩ h1,
        ⟨tmp, by rw [h2]; simp [initItem]⟩, fun h => h3 (by simpa [initItem] using h), ?_⟩
      exact ((Grows.delay ms s).trans h4).mono (by simp [initCost]) (by simp [initCost]; omega)

/-! ### The frames the engine sends. -/

/-- The first bytes of a register after a store of bytes that fit (R34). -/
theorem firstBytes_storeBytes {n : Nat} (v : Vector Byte n) (bs : List Byte) (h : bs.length ≤ n) :
    firstBytes (storeBytes v bs) bs.length = bs := by
  apply List.ext_getElem
  · simp [firstBytes, h]
  · intro j h1 h2
    simp only [firstBytes, storeBytes, List.getElem_take, Vector.getElem_toList, Vector.getElem_ofFn]
    simp [List.getD_eq_getElem?_getD, h2]

/-- The frame a request sends. -/
theorem frameRequest_frame (m : Byte) (s : State) : firstBytes (frameRequest m s).hid.frame 1 = [m] := by
  simpa using firstBytes_storeBytes s.hid.frame [m] (by simp)

/-- The frame an anti-collision sends. -/
theorem frameAnticollision_frame (s : State) : firstBytes (frameAnticollision s).hid.frame 2 = [0x93, 0x20] := by
  simpa [piccAnticoll, nvbAnticoll] using firstBytes_storeBytes s.hid.frame [0x93, 0x20] (by simp)

/-- The operand bytes as CALCCRC and TOCARD put them into the frame. -/
theorem loadFrame_frame (s : State) (h : s.opr.len.toNat ≤ 64) :
    firstBytes (loadFrame s).hid.frame s.opr.len.toNat = firstBytes s.opr.buf s.opr.len.toNat := by
  have hl := firstBytes_length s.opr.buf s.opr.len.toNat h
  have := firstBytes_storeBytes s.hid.frame (firstBytes s.opr.buf s.opr.len.toNat) (by omega)
  rw [hl] at this
  simpa using this

end Sys2Proof.Machine
end

