-- ==== Sys2Proof/Laws/PerInstr.lean ====
section
/-! SUPPORT. Statements made per instruction: how many bytes its encoding has. -/

namespace Sys2Proof.Laws

/-- The number of bytes of an instruction's row: one for a code or a command, two for a bus transaction, and the length of the
frame (R100 to R115). -/
def rowBytes : Instr → Nat
  | .busrd _ | .buswr _ _ | .piccAnticollision => 2
  | .piccSelect _ _ _ _ _ _ _ => 9
  | .piccHalt _ _ => 4
  | .readreg | .writereg | .setbits | .clrbits | .calccrc | .tocard | .ispresent | .waitpresent | .waitremoved | .readuid
  | .select | .classify | .halt | .init | .reservedE | .reservedF | .cmdIdle | .cmdCalccrc | .cmdTransceive | .cmdAuthent
  | .cmdSoftreset | .cmdOther _ | .piccRequest _ => 1

/-- An instruction's encoding has as many bytes as its row. -/
def EncodeLength.Statement (i : Instr) : Prop := (encode i).length = rowBytes i

theorem EncodeLength.readreg : EncodeLength.Statement .readreg := rfl
theorem EncodeLength.writereg : EncodeLength.Statement .writereg := rfl
theorem EncodeLength.setbits : EncodeLength.Statement .setbits := rfl
theorem EncodeLength.clrbits : EncodeLength.Statement .clrbits := rfl
theorem EncodeLength.calccrc : EncodeLength.Statement .calccrc := rfl
theorem EncodeLength.tocard : EncodeLength.Statement .tocard := rfl
theorem EncodeLength.ispresent : EncodeLength.Statement .ispresent := rfl
theorem EncodeLength.waitpresent : EncodeLength.Statement .waitpresent := rfl
theorem EncodeLength.waitremoved : EncodeLength.Statement .waitremoved := rfl
theorem EncodeLength.readuid : EncodeLength.Statement .readuid := rfl
theorem EncodeLength.select : EncodeLength.Statement .select := rfl
theorem EncodeLength.classify : EncodeLength.Statement .classify := rfl
theorem EncodeLength.halt : EncodeLength.Statement .halt := rfl
theorem EncodeLength.init : EncodeLength.Statement .init := rfl
theorem EncodeLength.reservedE : EncodeLength.Statement .reservedE := rfl
theorem EncodeLength.reservedF : EncodeLength.Statement .reservedF := rfl
theorem EncodeLength.busrd (a : RegAddr) : EncodeLength.Statement (.busrd a) := rfl
theorem EncodeLength.buswr (a : RegAddr) (v : Byte) : EncodeLength.Statement (.buswr a v) := rfl
theorem EncodeLength.cmdIdle : EncodeLength.Statement .cmdIdle := rfl
theorem EncodeLength.cmdCalccrc : EncodeLength.Statement .cmdCalccrc := rfl
theorem EncodeLength.cmdTransceive : EncodeLength.Statement .cmdTransceive := rfl
theorem EncodeLength.cmdAuthent : EncodeLength.Statement .cmdAuthent := rfl
theorem EncodeLength.cmdSoftreset : EncodeLength.Statement .cmdSoftreset := rfl
theorem EncodeLength.cmdOther (c : Byte) : EncodeLength.Statement (.cmdOther c) := rfl
theorem EncodeLength.piccRequest (m : Byte) : EncodeLength.Statement (.piccRequest m) := rfl
theorem EncodeLength.piccAnticollision : EncodeLength.Statement .piccAnticollision := rfl
theorem EncodeLength.piccSelect (u0 u1 u2 u3 u4 c0 c1 : Byte) : EncodeLength.Statement (.piccSelect u0 u1 u2 u3 u4 c0 c1) := rfl
theorem EncodeLength.piccHalt (c0 c1 : Byte) : EncodeLength.Statement (.piccHalt c0 c1) := rfl

end Sys2Proof.Laws
end

