-- ==== Sys2Proof/Tests/Slice0.lean ====
section
/-! SUPPORT. The tests: the well-formedness smoke test, words written out from the encoding tables, the vectors of
95_test_vectors.md (one step each), and for every statement with hypotheses a state and operands that meet them all. -/

namespace Sys2Proof.Tests

open Sys2Proof Sys2Proof.Machine Sys2Proof.Safety

/-! ### Well-formedness. -/

theorem test_cmdOther_of_named_byte_is_ill_formed : (Instr.cmdOther 0x0C).wellFormed = false := by decide
theorem test_cmdOther_of_other_byte_is_well_formed : (Instr.cmdOther 0x8C).wellFormed = true := by decide
theorem test_only_five_bytes_are_named :
    ((List.range 256).countP fun k => !(Instr.cmdOther (BitVec.ofNat 8 k)).wellFormed) = 5 := by decide +kernel

/-! ### Decoding: the words of R102, R106, R107, R109, R110 and R112 to R115, bit by bit. -/

theorem test_decode_readreg : decode .hop [0b00000000] = .ok .readreg := by decide
theorem test_decode_writereg : decode .hop [0b00000001] = .ok .writereg := by decide
theorem test_decode_setbits : decode .hop [0b00000010] = .ok .setbits := by decide
theorem test_decode_clrbits : decode .hop [0b00000011] = .ok .clrbits := by decide
theorem test_decode_calccrc : decode .hop [0b00000100] = .ok .calccrc := by decide
theorem test_decode_tocard : decode .hop [0b00000101] = .ok .tocard := by decide
theorem test_decode_ispresent : decode .hop [0b00000110] = .ok .ispresent := by decide
theorem test_decode_waitpresent : decode .hop [0b00000111] = .ok .waitpresent := by decide
theorem test_decode_waitremoved : decode .hop [0b00001000] = .ok .waitremoved := by decide
theorem test_decode_readuid : decode .hop [0b00001001] = .ok .readuid := by decide
theorem test_decode_select : decode .hop [0b00001010] = .ok .select := by decide
theorem test_decode_classify : decode .hop [0b00001011] = .ok .classify := by decide
theorem test_decode_halt : decode .hop [0b00001100] = .ok .halt := by decide
theorem test_decode_init : decode .hop [0b00001101] = .ok .init := by decide
theorem test_decode_reservedE : decode .hop [0b00001110] = .ok .reservedE := by decide
theorem test_decode_reservedF : decode .hop [0b00001111] = .ok .reservedF := by decide
theorem test_decode_busrd_version : decode .bus [0b11101110, 0b00000000] = .ok (.busrd 0b110111) := by decide
theorem test_decode_buswr_bitframing : decode .bus [0b00011010, 0b00000111] = .ok (.buswr 0b001101 0b00000111) := by decide
theorem test_decode_cmdIdle : decode .pcdcmd [0b00000000] = .ok .cmdIdle := by decide
theorem test_decode_cmdCalccrc : decode .pcdcmd [0b00000011] = .ok .cmdCalccrc := by decide
theorem test_decode_cmdTransceive : decode .pcdcmd [0b00001100] = .ok .cmdTransceive := by decide
theorem test_decode_cmdAuthent : decode .pcdcmd [0b00001110] = .ok .cmdAuthent := by decide
theorem test_decode_cmdSoftreset : decode .pcdcmd [0b00001111] = .ok .cmdSoftreset := by decide
theorem test_decode_cmdOther : decode .pcdcmd [0b10001100] = .ok (.cmdOther 0b10001100) := by decide
theorem test_decode_piccRequest : decode .picc [0b00100110] = .ok (.piccRequest 0b00100110) := by decide
theorem test_decode_piccAnticollision : decode .picc [0b10010011, 0b00100000] = .ok .piccAnticollision := by decide
theorem test_decode_piccSelect : decode .picc [0b10010011, 0b01110000, 0x01, 0x02, 0x03, 0x04, 0x04, 0x8E, 0x25] =
    .ok (.piccSelect 0x01 0x02 0x03 0x04 0x04 0x8E 0x25) := by decide
theorem test_decode_piccHalt : decode .picc [0b01010000, 0b00000000, 0x57, 0xCD] = .ok (.piccHalt 0x57 0xCD) := by decide

theorem test_refuse_wide_operation_code : decode .hop [0b00010000] = .error .hopNibble := by decide
theorem test_refuse_address_bit_0 : decode .bus [0b00011011, 0b00000111] = .error .busAddressBit := by decide
theorem test_refuse_other_dummy : decode .bus [0b11101110, 0b00000001] = .error .busDummy := by decide
theorem test_refuse_other_frame : decode .picc [0b10010011, 0b00100001] = .error .piccFrame := by decide
theorem test_refuse_length : decode .picc [0x93, 0x70, 0x01] = .error .length := by decide

theorem test_table_init : decodeTableWord 8 0xD = some .init := by decide
theorem test_table_busrd : decodeTableWord 16 0b1110111000000000 = some (.busrd 0x37) := by decide
theorem test_table_buswr : decodeTableWord 16 0b0001101000000111 = some (.buswr 0x0D 0x07) := by decide
theorem test_table_anticollision : decodeTableWord 16 0x9320 = some .piccAnticollision := by decide
theorem test_table_select : decodeTableWord 72 0x937001020304048E25 = some (.piccSelect 1 2 3 4 4 0x8E 0x25) := by decide
theorem test_table_halt : decodeTableWord 32 0x500057CD = some (.piccHalt 0x57 0xCD) := by decide

/-! ### Single operations, from the vectors. -/

/-- The parameters of the vectors: the defaults and the instance `P0`. -/
def vectorParams : Config.Params := paramsOf instanceP0

/-- The state in which a host program line has just been submitted and the PCD will return the listed bytes. -/
def submitted (l : Line) (answers : List Byte) : State := provide answers (l.submit State.reset)

/-- The operation `OP` names, from its `START` to its end: what the steps of the machine come to (`StepsRunTheOperation`). -/
def runs (s : State) : Out := exec (decodeOp s.opr.op) s

/-- Whether an outcome is a next state with the property. -/
def nextHas (o : Out) (f : State → Bool) : Bool :=
  match o with
  | .next t => f t
  | _ => false

/-- V-REG-7: the address 0x77 makes the transaction of 0x37. -/
theorem test_readreg : nextHas (runs (submitted (.readreg 0x77) [0x92]))
    (fun t => t.res.val == 0x92 && t.bus.trace == [.rd 0x37 0x92] && t.ctl.done) = true := by decide
/-- V-REG-8. -/
theorem test_writereg : nextHas (runs (submitted (.writereg 0xCD 0x07) []))
    (fun t => t.bus.trace == [.wr 0x0D 0x07] && t.res == Results.reset) = true := by decide
/-- V-REG-3. -/
theorem test_setbits : nextHas (runs (submitted (.setbits 0x14 0x03) [0x80]))
    (fun t => t.bus.trace == [.rd 0x14 0x80, .wr 0x14 0x83]) = true := by decide
/-- V-REG-4. -/
theorem test_clrbits : nextHas (runs (submitted (.clrbits 0x0D 0x80) [0x87]))
    (fun t => t.bus.trace == [.rd 0x0D 0x87, .wr 0x0D 0x07]) = true := by decide
/-- V-CRC-2. -/
theorem test_calccrc_of_nothing : nextHas (runs (submitted (.calccrc []) [0x04, 0x02, 0x00, 0x00, 0x04, 0x63, 0x61]))
    (fun t => t.res.crc0 == 0x63 && t.res.crc1 == 0x61 && t.bus.trace ==
      [.rd 0x05 0x04, .wr 0x05 0x00, .rd 0x0A 0x02, .wr 0x0A 0x82, .wr 0x01 0x03, .rd 0x05 0x00, .rd 0x05 0x00, .rd 0x05 0x04,
       .rd 0x22 0x63, .rd 0x21 0x61]) = true := by decide +kernel
/-- V-CRC-6: 65 bytes are refused. -/
theorem test_calccrc_refused : nextHas (runs { submitted (.calccrc []) [] with
      opr := { Operands.reset with op := 0x4, len := 65 }, res := { Results.reset with status := .ok } })
    (fun t => t.res.status == .error && t.bus.trace == [] && t.ctl == endedControl) = true := by decide
/-- V-EXEC-12: an empty frame, another command, two polls with a delay each, ended by the timer bit. -/
theorem test_tocard_other : nextHas (runs (submitted (.tocard 0x00 []) [0x00, 0x00, 0x30, 0x30, 0x31, 0x00, 0x00]))
    (fun t => t.res.status == .ok && t.res.bits == 0 && t.bus.trace ==
      [.wr 0x02 0x80, .rd 0x04 0x00, .wr 0x04 0x00, .rd 0x0A 0x00, .wr 0x0A 0x80, .wr 0x01 0x00, .wr 0x01 0x00, .rd 0x04 0x30,
       .delay 10, .rd 0x04 0x30, .delay 10, .rd 0x04 0x31, .rd 0x0D 0x00, .wr 0x0D 0x00, .rd 0x06 0x00]) = true := by decide +kernel
/-- V-EXEC-1. -/
theorem test_tocard_transceive :
    nextHas (runs (submitted (.tocard 0x0C [0x26]) [0x14, 0x00, 0x07, 0x30, 0x87, 0x00, 0x02, 0x10, 0x04, 0x00]))
    (fun t => t.res.status == .ok && t.res.bits == 16 && t.res.rlen == 2 && firstBytes t.res.rbuf 3 == [0x04, 0x00, 0x00] &&
      t.bus.trace ==
      [.wr 0x02 0xF7, .rd 0x04 0x14, .wr 0x04 0x14, .rd 0x0A 0x00, .wr 0x0A 0x80, .wr 0x01 0x00, .wr 0x09 0x26, .wr 0x01 0x0C,
       .rd 0x0D 0x07, .wr 0x0D 0x87, .rd 0x04 0x30, .rd 0x0D 0x87, .wr 0x0D 0x07, .rd 0x06 0x00, .rd 0x0A 0x02, .rd 0x0C 0x10,
       .rd 0x09 0x04, .rd 0x09 0x00]) = true := by decide +kernel
/-- V-PRES-1. -/
theorem test_ispresent :
    nextHas (runs (submitted (.ispresent 0x26) [0x00, 0x00, 0x07, 0x30, 0x87, 0x00, 0x02, 0x00, 0x04, 0x00]))
    (fun t => t.res.status == .ok && t.res.bits == 16 && t.bus.trace.take 2 == [.wr 0x0D 0x07, .wr 0x02 0xF7]) = true := by
  decide +kernel
/-- V-PRES-2: a 24-bit answer fails the gate. -/
theorem test_ispresent_gate :
    nextHas (runs (submitted (.ispresent 0x26) [0x00, 0x00, 0x07, 0x30, 0x87, 0x00, 0x03, 0x00, 0x04, 0x00, 0x00]))
    (fun t => t.res.status == .error && t.res.bits == 24) = true := by decide +kernel
/-- V-WAIT-1. -/
theorem test_waitpresent : nextHas (hostOperation .waitpresentStart (bodyWaitpresent vectorParams)
      (submitted (.waitpresent 3) [0x00, 0x00, 0x20, 0x24]))
    (fun t => t.res.flag && t.bus.trace ==
      [.wr 0x0D 0x87, .rd 0x04 0x00, .delay 5, .wr 0x0D 0x87, .rd 0x04 0x00, .delay 5, .wr 0x0D 0x87, .rd 0x04 0x20,
       .rd 0x04 0x24, .wr 0x04 0x24]) = true := by decide +kernel
/-- V-WAIT-0: no tick, no event. -/
theorem test_waitpresent_of_zero : nextHas (runs (submitted (.waitpresent 0) []))
    (fun t => !t.res.flag && t.bus.trace == []) = true := by decide +kernel
/-- V-WAIT-3. -/
theorem test_waitremoved : nextHas (hostOperation .waitremovedFraming (bodyWaitremoved vectorParams)
      (submitted (.waitremoved 2) [0x00, 0x01]))
    (fun t => t.res.flag && t.bus.trace == [.wr 0x0D 0x00, .rd 0x04 0x00, .delay 1, .rd 0x04 0x01]) = true := by decide +kernel
/-- V-WAIT-4. -/
theorem test_waitremoved_not : nextHas (hostOperation .waitremovedFraming (bodyWaitremoved vectorParams)
      (submitted (.waitremoved 3) [0x30, 0x30, 0x30]))
    (fun t => !t.res.flag && t.bus.trace ==
      [.wr 0x0D 0x00, .rd 0x04 0x30, .delay 1, .rd 0x04 0x30, .delay 1, .rd 0x04 0x30, .delay 1]) = true := by decide +kernel
/-- V-UID-1. -/
theorem test_readuid :
    nextHas (runs (submitted .readuid [0x00, 0x00, 0x00, 0x30, 0x80, 0x00, 0x05, 0x00, 0x01, 0x02, 0x03, 0x04, 0x04]))
    (fun t => t.res.status == .ok && t.res.bits == 40 && firstBytes t.res.rbuf 6 == [0x01, 0x02, 0x03, 0x04, 0x04, 0x00]) =
    true := by decide +kernel
/-- V-UID-2: one bit flipped. -/
theorem test_readuid_flipped :
    nextHas (runs (submitted .readuid [0x00, 0x00, 0x00, 0x30, 0x80, 0x00, 0x05, 0x00, 0x00, 0x02, 0x03, 0x04, 0x04]))
    (fun t => t.res.status == .error && t.res.bits == 40) = true := by decide +kernel
/-- V-SEL-1. -/
theorem test_select : nextHas (runs (submitted (.select 0x01 0x02 0x03 0x04 0x04)
      [0x00, 0x00, 0x04, 0x8E, 0x25, 0x00, 0x00, 0x00, 0x30, 0x80, 0x00, 0x03, 0x00, 0x08, 0xB6, 0xDD]))
    (fun t => t.res.val == 0x08 && t.res.crc0 == 0x8E && t.res.crc1 == 0x25 && (t.bus.trace.drop 21).take 10 ==
      fifoWrites [0x93, 0x70, 0x01, 0x02, 0x03, 0x04, 0x04, 0x8E, 0x25] ++ [.wr 0x01 0x0C]) = true := by decide +kernel
/-- V-CLS-1: the override by bit 5 wins over the table. -/
theorem test_classify : nextHas (runs (submitted (.classify 0x28) [])) (fun t => t.res.ctype == .iso14443_4) = true := by decide
/-- V-CLS-1. -/
theorem test_classify_table : nextHas (runs (submitted (.classify 0x18) [])) (fun t => t.res.ctype == .mifare4K) = true := by
  decide
/-- V-HALT-1. -/
theorem test_halt : nextHas (runs (submitted .halt
      [0x00, 0x00, 0x04, 0x57, 0xCD, 0x00, 0x00, 0x00, 0x00, 0x01, 0x80, 0x00, 0x00, 0x00, 0x00]))
    (fun t => t.res.crc0 == 0x57 && t.res.crc1 == 0xCD && t.bus.trace.drop 16 ==
      fifoWrites [0x50, 0x00, 0x57, 0xCD] ++ [.wr 0x01 0x0C, .rd 0x0D 0x00, .wr 0x0D 0x80, .rd 0x04 0x00, .delay 10,
        .rd 0x04 0x01, .rd 0x0D 0x80, .wr 0x0D 0x00, .rd 0x06 0x00, .rd 0x0A 0x00, .rd 0x0C 0x00, .rd 0x09 0x00]) = true := by
  decide +kernel
/-- V-INIT-1. -/
theorem test_init : nextHas (hostOperation .initReset (bodyInit vectorParams) (submitted (.init 0x00) [0x80, 0x92]))
    (fun t => t.res.status == .ok && t.res.val == 0x92 && t.bus.trace ==
      [.wr 0x01 0x0F, .delay 50, .wr 0x2A 0x8D, .wr 0x2B 0x3E, .wr 0x2D 0x1E, .wr 0x2C 0x00, .wr 0x26 0x70, .rd 0x14 0x80,
       .wr 0x14 0x83, .rd 0x37 0x92]) = true := by decide +kernel
/-- V-RSV-1. -/
theorem test_reserved : nextHas (runs { State.reset with
      opr := { Operands.reset with op := 0xE }, ctl := { Control.reset with start := true },
      res := { Results.reset with status := .ok } })
    (fun t => t.res == Results.reset && t.bus.trace == [] && t.ctl == endedControl) = true := by decide
/-- R106: the bus word and its kept byte. -/
theorem test_busrd : nextHas (step (provide [0x92] { State.reset with request := some ⟨.bus, [0xEE, 0x00]⟩ }))
    (fun t => t.bus.rx == 0x92 && t.bus.trace == [.rd 0x37 0x92] && t.request == none) = true := by decide
/-- R107. -/
theorem test_buswr : nextHas (step { State.reset with request := some ⟨.bus, [0x1A, 0x07]⟩ })
    (fun t => t.bus.trace == [.wr 0x0D 0x07]) = true := by decide
/-- R110. -/
theorem test_cmdOther : nextHas (step { State.reset with request := some ⟨.pcdcmd, [0x8C]⟩ })
    (fun t => t.bus.trace == [.wr 0x01 0x8C]) = true := by decide
/-- R115. -/
theorem test_piccHalt : nextHas (step (provide [0x00, 0x00, 0x00, 0x01, 0x80, 0x00, 0x00, 0x00, 0x00]
      { State.reset with request := some ⟨.picc, [0x50, 0x00, 0x57, 0xCD]⟩ }))
    (fun t => t.bus.trace.drop 6 == fifoWrites [0x50, 0x00, 0x57, 0xCD] ++ [.wr 0x01 0x0C, .rd 0x0D 0x00, .wr 0x0D 0x80,
      .rd 0x04 0x01, .rd 0x0D 0x80, .wr 0x0D 0x00, .rd 0x06 0x00, .rd 0x0A 0x00, .rd 0x0C 0x00, .rd 0x09 0x00] &&
      t.hid.xst == .noTag && t.res == Results.reset) = true := by decide +kernel
/-- R37: the four pages of sixteen, and R6's address range. -/
theorem test_pages : ((List.range 4).map fun k => (pageOf (BitVec.ofNat 6 (16 * k)), pageOf (BitVec.ofNat 6 (16 * k + 15)))) =
    regPages.map (fun g => (g, g)) ∧ regAddrMax.toNat + 1 = regPages.length * regPageSize ∧ pageOf 0x0D = .commandStatus ∧
    pageOf 0x37 = .test := by decide
/-- R112: the seven bits of REQA, 010 0110. -/
theorem test_short_frame : (shortFrameOnAir piccReqa).toNat = 0b0100110 := by decide
/-- R60, R65: 0x00 goes out while 0x92 comes in, bit 7 first. -/
theorem test_exchange : exchangeByte 0x00 (bitsMsbFirst 0x92) = 0x92 ∧
    bitsMsbFirst 0x92 = [true, false, false, true, false, false, true, false] ∧
    (exchangePulses 0xEE (bitsMsbFirst 0x92)).take 4 =
      [.clock true true, .clock true false, .clock true false, .clock false true] := by decide
/-- V-CRC-0: the default `CRC_A` of 0x50 0x00 and of 0x08. -/
theorem test_crcA : crcADefault [0x50, 0x00] = (0x57, 0xCD) ∧ crcADefault [0x08] = (0xB6, 0xDD) := by decide +kernel

/-! ### Witnesses: for each statement with hypotheses, values that meet them all. -/

/-- A state in which an operation is in progress. -/
def running : State := launch (submitted (.readreg 0x37) [])

/-- 64 operand bytes, the most there can be. -/
def fullBuffer : State := { State.reset with opr := { Operands.reset with len := 64 } }

theorem witness_DecodeOfEncode : (Instr.cmdOther 0x8C).wellFormed = true := by decide
theorem witness_EncodeOfDecode : decode .picc [0x50, 0x00, 0x57, 0xCD] = .ok (.piccHalt 0x57 0xCD) := by decide
theorem witness_AddressByteFields : (0x3F : Byte).toNat < 0x40 := by decide
theorem witness_BusWordsAreTheWire : isTransaction (.rd 0x37 0x92) = true ∧ isTransaction (.wr 0x0D 0x07) = true := by decide
theorem witness_StepRunsTheInstruction_request :
    ({ State.reset with request := some ⟨.bus, [0x1A, 0x07]⟩ } : State).request = some ⟨.bus, [0x1A, 0x07]⟩ ∧
    decode .bus [0x1A, 0x07] = .ok (.buswr 0x0D 0x07) := by decide
theorem witness_StepRunsTheInstruction_start :
    (submitted (.readreg 0x37) []).request = none ∧ (submitted (.readreg 0x37) []).ctl.start = true ∧
    (submitted (.readreg 0x37) []).ctl.busy = false := by decide
/-- A placed host operation runs whole. -/
theorem test_placed_hop : nextHas (step ((provide [0x92] { State.reset with opr := { Operands.reset with a := 0x37 } }).withFetchWord 8 0x0))
    (fun t => t.res.val == 0x92 && t.bus.trace == [.rd 0x37 0x92] && t.ctl == endedControl) = true := by decide
theorem witness_PlacedWordRunsNext : decodeTableWord 8 0xB = some .classify ∧ decodeTableWord 16 0x9320 = some .piccAnticollision := by
  decide
theorem witness_StepWithoutStart_idle :
    State.reset.request = none ∧ State.reset.ctl.start = false ∧ State.reset.ctl.seq = .idle := by decide
theorem witness_StepWithoutStart_running :
    running.request = none ∧ running.ctl.start = false ∧ running.ctl.seq ≠ .idle := by decide
theorem witness_OverlapIsAFault :
    ({ running with ctl := { running.ctl with start := true } } : State).ctl.busy = true ∧ Instr.format .init = .hop ∧
    ({ running with ctl := { running.ctl with start := true } } : State).request = none ∧
    ({ running with ctl := { running.ctl with start := true } } : State).ctl.start = true := by decide
theorem witness_HostActions : State.reset.ctl.busy = false ∧ State.reset.request = none := by decide
theorem witness_LinesRunTheirOperation : State.reset.ctl.busy = false ∧ State.reset.request = none := by decide
theorem witness_LinesRunTheirOperation_bytes :
    ([0x93, 0x20] : List Byte).length ≤ 127 ∧ (2 : BitVec 7).toNat = ([0x93, 0x20] : List Byte).length ∧
    (∀ k : Fin 64, (storeBytes fullBuffer.opr.buf [0x93, 0x20])[k] = ([0x93, 0x20] : List Byte).getD k fullBuffer.opr.buf[k]) ∧
    (127 : BitVec 7).toNat = (List.replicate 127 (0x00 : Byte)).length := by decide +kernel
theorem witness_LinesRunTheirOperation_uid : ∀ k : Fin 64,
    (storeBytes fullBuffer.opr.buf [1, 2, 3, 4, 4])[k] = ([1, 2, 3, 4, 4] : List Byte).getD k fullBuffer.opr.buf[k] := by decide +kernel
theorem witness_ResetValues_reset : State.reset = State.reset ∨ State.reset = hostReset running := Or.inl rfl
theorem witness_ResetValues_hostReset : hostReset running = State.reset ∨ hostReset running = hostReset running := Or.inr rfl
theorem witness_StepKeepsInvariant :
    Inv running ∧ nextHas (step running) (fun t => t.ctl.done && t.bus.trace.length == 1) = true := by decide
theorem witness_StepExtendsTheTrace : nextHas (step (submitted (.readreg 0x37) [])) (fun _ => true) = true := by decide
theorem witness_TicksReachTheMeaning : (submitted (.readreg 0x37) []).ctl.busy = false := by decide
theorem witness_EngineStepIsOneTransaction : running.request = none ∧ running.ctl.start = false ∧
    nextHas (engineStep params running) (fun t => t.bus.trace.length == 1) = true ∧
    (submitted (.readreg 0x37) []).ctl.start = true ∧ (submitted (.readreg 0x37) []).ctl.busy = false ∧
    ({ running with ctl := { running.ctl with start := true } } : State).ctl.busy = true := by decide
theorem witness_StepsRunTheOperation : State.reset.request = none ∧ State.reset.ctl.busy = false := by decide
/-- V-REG-3 by steps of R10: the start, the read, the write and the end. -/
theorem test_setbits_by_steps :
    nextHas (step (submitted (.setbits 0x14 0x03) [0x80])) (fun t =>
      t.bus.trace == [] && t.ctl.busy && nextHas (step t) (fun u =>
        u.bus.trace == [.rd 0x14 0x80] && u.ctl.busy && nextHas (step u) (fun v =>
          v.bus.trace == [.rd 0x14 0x80, .wr 0x14 0x83] && v.ctl == endedControl))) = true := by decide
theorem witness_HostOperationsWriteMatrix : Instr.format .init = .hop ∧ State.reset.ctl.busy = false := by decide
theorem witness_HostOperationsWriteMatrix_refused :
    Instr.format .tocard = .hop ∧ refusedOperands { Operands.reset with len := 65 } .tocard = true ∧
    refusedOperands { Operands.reset with len := 64 } .tocard = false := by decide
theorem witness_CostCeilings : exec (.buswr 0x0D 0x07) State.reset = .next (busWrite 0x0D 0x07 State.reset) := rfl
theorem witness_ReadregResult : State.reset.ctl.busy = false := by decide
theorem witness_WriteregResult : State.reset.ctl.busy = false := by decide
theorem witness_SetbitsResult : (0x80 : Byte) = nextAnswer (provide [0x80] State.reset).bus ∧ State.reset.ctl.busy = false := by
  decide
theorem witness_ClrbitsResult : (0x87 : Byte) = nextAnswer (provide [0x87] State.reset).bus ∧ State.reset.ctl.busy = false := by
  decide
theorem witness_BitCountFormula : (0 : BitVec 3) = 0 ∧ (7 : BitVec 3) ≠ 0 ∧ (0x00 : Byte) = 0 := by decide
theorem witness_DrainCountClamp_count :
    (0x00 : Byte) = 0 ∧ (1 ≤ (0x01 : Byte).toNat ∧ (0x10 : Byte).toNat ≤ 16) ∧ 16 < (0x11 : Byte).toNat := by decide
theorem witness_DrainCountClamp_drain :
    ({ Hidden.reset with cmdr := 0x0C } : Hidden).cmdr = 0x0C ∧ (0xE4 : Byte) &&& 0x1B = 0 ∧
    ([0x01, 0x02] : List Byte).length = (drainCount 0x02).toNat ∧
    (provide [0xE4, 0x02, 0x00, 0x01, 0x02] { State.reset with hid := { Hidden.reset with cmdr := 0x0C } }).bus.answers =
      [0xE4, 0x02, 0x00] ++ [0x01, 0x02] ++ [] := by decide
theorem witness_RefusedOperations :
    State.reset.ctl.busy = false ∧ 64 < ({ Operands.reset with len := 65 } : Operands).len.toNat := by decide
theorem witness_CalccrcResult_first_poll :
    fullBuffer.ctl.busy = false ∧ fullBuffer.opr.len.toNat ≤ 64 ∧ ([] : List Byte).length ≤ 254 ∧
    (∀ b ∈ ([] : List Byte), b &&& 0x04 = 0) ∧ (0x04 : Byte) &&& 0x04 ≠ 0 ∧
    (provide [0x00, 0x00, 0x04, 0x57, 0xCD] fullBuffer).bus.answers = [0x00, 0x00] ++ [] ++ [0x04, 0x57, 0xCD] ++ [] := by decide
theorem witness_CalccrcResult_last_poll :
    (List.replicate 254 (0xFB : Byte)).length ≤ 254 ∧ (∀ b ∈ List.replicate 254 (0xFB : Byte), b &&& 0x04 = 0) ∧
    (provide ([0x00, 0x00] ++ List.replicate 254 0xFB ++ [0x04, 0x57, 0xCD] ++ []) fullBuffer).bus.answers =
      [0x00, 0x00] ++ List.replicate 254 0xFB ++ [0x04, 0x57, 0xCD] ++ [] := by decide +kernel
theorem witness_CalccrcTimeoutIsSilent :
    fullBuffer.ctl.busy = false ∧ fullBuffer.opr.len.toNat ≤ 64 ∧ (List.replicate 255 (0xFB : Byte)).length = 255 ∧
    (∀ b ∈ List.replicate 255 (0xFB : Byte), b &&& 0x04 = 0) ∧
    (provide ([0x00, 0x00] ++ List.replicate 255 0xFB ++ [0xAA, 0xBB] ++ []) fullBuffer).bus.answers =
      [0x00, 0x00] ++ List.replicate 255 0xFB ++ [0xAA, 0xBB] ++ [] := by decide +kernel
theorem witness_FifoHoldsTheOperandAtTheCommand : fullBuffer.ctl.busy = false ∧ fullBuffer.opr.len.toNat ≤ 64 := by decide
/-- The state of a CALCCRC of the one byte 0x08 that the PCD answers with the listed bytes. -/
def summing (answers : List Byte) : State :=
  provide answers { State.reset with opr := { Operands.reset with len := 1, buf := storeBytes Operands.reset.buf [0x08] } }
theorem witness_CalccrcUnderTheContract :
    (summing []).ctl.busy = false ∧ (summing []).opr.len.toNat ≤ 64 ∧ ([0x00] : List Byte).length ≤ 254 ∧
    (∀ b ∈ ([0x00] : List Byte), b &&& 0x04 = 0) ∧ (0x04 : Byte) &&& 0x04 ≠ 0 ∧
    (summing [0x00, 0x00, 0x00, 0x04, 0xB6, 0xDD]).bus.answers = [0x00, 0x00] ++ [0x00] ++ [0x04, 0xB6, 0xDD] ++ [] ∧
    nextHas (exec .calccrc (summing [0x00, 0x00, 0x00, 0x04, 0xB6, 0xDD])) (fun t =>
      t.bus.trace == t.bus.trace.take 5 ++ [.wr 0x01 0x03] ++ t.bus.trace.drop 6 &&
      ((0xB6 : Byte), (0xDD : Byte)) == crcPresented (paramsOf instanceP0) [0x99] (t.bus.trace.take 5)) = true := by decide +kernel
theorem witness_FifoNeverOverfilled :
    Instr.classify ∈ [Instr.calccrc, .tocard, .ispresent, .waitpresent, .waitremoved, .readuid, .select, .classify, .halt] ∧
    exec .classify State.reset = .next (finish (bodyClassify (takeStart .classify State.reset))) ∧
    (List.replicate 64 (0x00 : Byte)).length ≤ 64 ∧
    (finish (bodyClassify (takeStart .classify State.reset))).bus.trace = State.reset.bus.trace ++ [] ++ [] :=
  ⟨by decide, rfl, by decide, rfl⟩
theorem witness_FifoNeverOverfilled_full : nextHas (runs (provide [0x00, 0x00, 0x04, 0xC1, 0x93]
      { fullBuffer with opr := { fullBuffer.opr with op := 0x4 }, ctl := { Control.reset with start := true } }))
    (fun t => (fifoAfter params (List.replicate 64 0x00) (t.bus.trace.take 68)).length == 64) = true := by decide +kernel
/-- The state of a Transceive of 64 bytes that the PCD answers with the listed bytes. -/
def transceiving (answers : List Byte) : State :=
  provide answers { State.reset with opr := { Operands.reset with d := 0x0C, len := 64 } }
theorem witness_TocardTransceiveResult :
    (transceiving [0x14, 0x00, 0x07, 0x00, 0x30, 0x87, 0x00, 0x02, 0x10, 0x04, 0x00]).ctl.busy = false ∧
    (transceiving []).opr.len.toNat ≤ 64 ∧ (transceiving []).opr.d = 0x0C ∧
    ([0x00] : List Byte).length ≤ 1998 ∧ (∀ b ∈ ([0x00] : List Byte), b &&& 0x31 = 0) ∧ (0x30 : Byte) &&& 0x31 ≠ 0 ∧
    (0x00 : Byte) &&& 0x1B = 0 ∧ ([0x04, 0x00] : List Byte).length = (drainCount 0x02).toNat ∧
    (transceiving [0x14, 0x00, 0x07, 0x00, 0x30, 0x87, 0x00, 0x02, 0x10, 0x04, 0x00]).bus.answers =
      [0x14, 0x00, 0x07] ++ [0x00] ++ [0x30, 0x87, 0x00, 0x02, 0x10] ++ [0x04, 0x00] ++ [] := by decide
theorem witness_TocardTransceiveResult_noTag :
    (0x01 : Byte) &&& 0x31 ≠ 0 ∧ (0xE4 : Byte) &&& 0x1B = 0 ∧ ([0x00] : List Byte).length = (drainCount 0x00).toNat ∧
    (transceiving [0x00, 0x00, 0x00, 0x01, 0x80, 0xE4, 0x00, 0x00, 0x00]).bus.answers =
      [0x00, 0x00, 0x00] ++ [] ++ [0x01, 0x80, 0xE4, 0x00, 0x00] ++ [0x00] ++ [] := by decide
theorem witness_TocardErrorBitResult :
    (transceiving []).ctl.busy = false ∧ (transceiving []).opr.len.toNat ≤ 64 ∧ (transceiving []).opr.d = 0x0C ∧
    ([] : List Byte).length ≤ 1998 ∧ (0x10 : Byte) &&& 0x31 ≠ 0 ∧ (0x08 : Byte) &&& 0x1B ≠ 0 ∧
    (transceiving [0x00, 0x00, 0x00, 0x10, 0x80, 0x08]).bus.answers = [0x00, 0x00, 0x00] ++ [] ++ [0x10, 0x80, 0x08] ++ [] := by
  decide
theorem witness_TocardTimeoutResult_transceive :
    (transceiving []).ctl.busy = false ∧ (transceiving []).opr.len.toNat ≤ 64 ∧
    (0x31 : Byte) = (if (transceiving []).opr.d = 0x0C then 0x31 else if (transceiving []).opr.d = 0x0E then 0x11 else 0x01) ∧
    (0xF7 : Byte) = (if (transceiving []).opr.d = 0x0C then 0xF7 else if (transceiving []).opr.d = 0x0E then 0x92 else 0x80) ∧
    ([0x07] : List Byte).length = (if (transceiving []).opr.d = 0x0C then 1 else 0) ∧
    (List.replicate 1999 (0x0E : Byte)).length = 1999 ∧ (∀ b ∈ List.replicate 1999 (0x0E : Byte), b &&& 0x31 = 0) ∧
    (transceiving ([0x00, 0x00] ++ [0x07] ++ List.replicate 1999 0x0E ++ [0x30, 0x87] ++ [])).bus.answers =
      [0x00, 0x00] ++ [0x07] ++ List.replicate 1999 0x0E ++ [0x30, 0x87] ++ [] :=
  ⟨rfl, by decide, rfl, rfl, rfl, List.length_replicate, fun b hb => by rw [List.eq_of_mem_replicate hb]; decide, rfl⟩
/-- The state of a TOCARD of a command over no bytes. -/
def commanding (cmd : Byte) (answers : List Byte) : State :=
  provide answers { State.reset with opr := { Operands.reset with d := cmd } }
theorem witness_TocardTimeoutResult_authent :
    (commanding 0x0E []).ctl.busy = false ∧ (commanding 0x0E []).opr.len.toNat ≤ 64 ∧
    (0x11 : Byte) = (if (commanding 0x0E []).opr.d = 0x0C then 0x31 else if (commanding 0x0E []).opr.d = 0x0E then 0x11 else 0x01) ∧
    (0x92 : Byte) = (if (commanding 0x0E []).opr.d = 0x0C then 0xF7 else if (commanding 0x0E []).opr.d = 0x0E then 0x92 else 0x80) ∧
    ([] : List Byte).length = (if (commanding 0x0E []).opr.d = 0x0C then 1 else 0) ∧
    (∀ b ∈ List.replicate 1999 (0xEE : Byte), b &&& 0x11 = 0) ∧
    (commanding 0x0E ([0x00, 0x00] ++ [] ++ List.replicate 1999 0xEE ++ [0x10, 0x00] ++ [])).bus.answers =
      [0x00, 0x00] ++ [] ++ List.replicate 1999 0xEE ++ [0x10, 0x00] ++ [] :=
  ⟨rfl, by decide, rfl, rfl, rfl, fun b hb => by rw [List.eq_of_mem_replicate hb]; decide, rfl⟩
theorem witness_TocardTimeoutResult_other :
    (0x01 : Byte) = (if (commanding 0x8C []).opr.d = 0x0C then 0x31 else if (commanding 0x8C []).opr.d = 0x0E then 0x11 else 0x01) ∧
    (0x80 : Byte) = (if (commanding 0x8C []).opr.d = 0x0C then 0xF7 else if (commanding 0x8C []).opr.d = 0x0E then 0x92 else 0x80) ∧
    ([] : List Byte).length = (if (commanding 0x8C []).opr.d = 0x0C then 1 else 0) ∧
    (∀ b ∈ List.replicate 1999 (0xFE : Byte), b &&& 0x01 = 0) ∧
    (commanding 0x8C ([0x00, 0x00] ++ [] ++ List.replicate 1999 0xFE ++ [0x01, 0x00] ++ [])).bus.answers =
      [0x00, 0x00] ++ [] ++ List.replicate 1999 0xFE ++ [0x01, 0x00] ++ [] :=
  ⟨rfl, rfl, rfl, fun b hb => by rw [List.eq_of_mem_replicate hb]; decide, rfl⟩
theorem witness_TocardOtherCommandResult_authent :
    (commanding 0x0E []).ctl.busy = false ∧ (commanding 0x0E []).opr.len.toNat ≤ 64 ∧ (commanding 0x0E []).opr.d ≠ 0x0C ∧
    (0x11 : Byte) = (if (commanding 0x0E []).opr.d = 0x0E then 0x11 else 0x01) ∧
    (0x92 : Byte) = (if (commanding 0x0E []).opr.d = 0x0E then 0x92 else 0x80) ∧
    ([0x20] : List Byte).length ≤ 1998 ∧ (∀ b ∈ ([0x20] : List Byte), b &&& 0x11 = 0) ∧ (0x10 : Byte) &&& 0x11 ≠ 0 ∧
    (commanding 0x0E [0x00, 0x00, 0x20, 0x10, 0x00, 0x00]).bus.answers =
      [0x00, 0x00] ++ [0x20] ++ [0x10, 0x00, 0x00] ++ [] := by decide
theorem witness_TocardOtherCommandResult_other :
    (commanding 0x8C []).opr.d ≠ 0x0C ∧ (0x01 : Byte) = (if (commanding 0x8C []).opr.d = 0x0E then 0x11 else 0x01) ∧
    (0x80 : Byte) = (if (commanding 0x8C []).opr.d = 0x0E then 0x92 else 0x80) ∧
    (∀ b ∈ ([0x30] : List Byte), b &&& 0x01 = 0) ∧ (0x01 : Byte) &&& 0x01 ≠ 0 ∧
    (commanding 0x8C [0x00, 0x00, 0x30, 0x01, 0x07, 0x1B]).bus.answers =
      [0x00, 0x00] ++ [0x30] ++ [0x01, 0x07, 0x1B] ++ [] := by decide
theorem witness_NoTagOnlyFromTransceive : Instr.format .tocard = .hop ∧ (transceiving []).res.status ≠ .noTag ∧
    nextHas (exec .tocard (transceiving [0x00, 0x00, 0x00, 0x01, 0x80, 0x00, 0x00, 0x00, 0x00]))
      (fun t => t.res.status == .noTag) = true := by decide +kernel
theorem witness_IspresentIsWriteregThenTocard : State.reset.ctl.busy = false := by decide
theorem witness_WaitpresentResult_found :
    (submitted (.waitpresent 2) [0x00, 0x20, 0x24]).ctl.busy = false ∧
    (submitted (.waitpresent 2) [0x00, 0x20, 0x24]).opr.t.toNat + 1 ≤ (submitted (.waitpresent 2) [0x00, 0x20, 0x24]).bus.answers.length ∧
    [0x00] = ((submitted (.waitpresent 2) [0x00, 0x20, 0x24]).bus.answers.take 2).takeWhile
      (fun b => !instanceP0.presentMatch b) := by decide
theorem witness_WaitpresentResult_not_found :
    (submitted (.waitpresent 2) [0x00, 0x14, 0x00]).opr.t.toNat + 1 ≤ (submitted (.waitpresent 2) [0x00, 0x14, 0x00]).bus.answers.length ∧
    [0x00, 0x14] = ((submitted (.waitpresent 2) [0x00, 0x14, 0x00]).bus.answers.take 2).takeWhile
      (fun b => !instanceP0.presentMatch b) := by decide
theorem witness_WaitpresentResult_machine : (submitted (.waitpresent 0) [0x00]).ctl.busy = false ∧
    (submitted (.waitpresent 0) [0x00]).opr.t.toNat + 1 ≤ (submitted (.waitpresent 0) [0x00]).bus.answers.length ∧
    [] = ((submitted (.waitpresent 0) [0x00]).bus.answers.take 0).takeWhile (fun b => !machineOpen.presentMatch b) :=
  ⟨rfl, by decide, rfl⟩
theorem witness_WaitremovedResult_removed :
    (submitted (.waitremoved 2) [0x00, 0x01]).ctl.busy = false ∧
    (submitted (.waitremoved 2) [0x00, 0x01]).opr.t.toNat ≤ (submitted (.waitremoved 2) [0x00, 0x01]).bus.answers.length ∧
    [0x00] = ((submitted (.waitremoved 2) [0x00, 0x01]).bus.answers.take 2).takeWhile
      (fun b => !instanceP0.removedMatch b) := by decide
theorem witness_WaitremovedResult_not_removed :
    (submitted (.waitremoved 0) []).opr.t.toNat ≤ (submitted (.waitremoved 0) []).bus.answers.length ∧
    [] = ((submitted (.waitremoved 0) []).bus.answers.take 0).takeWhile (fun b => !instanceP0.removedMatch b) := by decide
theorem witness_ReaduidIsWriteregThenTocard : State.reset.ctl.busy = false := by decide
theorem witness_UidSingleBitFlipsFail :
    uidStatus .ok (storeBytes (Vector.replicate 16 0) [0x01, 0x02, 0x03, 0x04, 0x04]) = .ok ∧ Status.noTag ≠ .ok ∧
    State.reset.ctl.busy = false := by decide
theorem witness_SelectIsCalccrcThenTocard :
    State.reset.ctl.busy = false ∧ [0x93, 0x70, 0, 0, 0, 0, 0] = [0x93, 0x70] ++ firstBytes State.reset.opr.buf 5 := by decide
theorem witness_ClassifierSteps :
    (0x28 : Byte) ∉ ([0x09, 0x08, 0x18, 0x00, 0x10, 0x11, 0x01] : List Byte) ∧ (0x60 : Byte) &&& 0x40 ≠ 0 ∧
    ((0x20 : Byte) &&& 0x40 = 0 ∧ (0x20 : Byte) &&& 0x20 ≠ 0) ∧ ((0x08 : Byte) &&& 0x40 = 0 ∧ (0x08 : Byte) &&& 0x20 = 0) ∧
    State.reset.ctl.busy = false ∧ 0x00 = State.reset.opr.d := by decide
theorem witness_ClassifierByCases : State.reset.ctl.busy = false := by decide
theorem witness_HaltIsCalccrcThenTocard : State.reset.ctl.busy = false := by decide
theorem witness_InitResult : State.reset.ctl.busy = false := by decide

end Sys2Proof.Tests
end

/-! PROOF. What one step can do: at most one event, and no operand register, request port or `START` is written by a tick. -/

namespace Sys2Proof.Proofs

open Sys2Proof.Machine Sys2Proof.Safety

/-! ### At most one event. -/

/-- What one tick may do: the bus stays as it is or makes one event, and no operand register, no word of the request port and no
`START` is written. -/
structure TickEffect (s t : State) : Prop where
  opr : t.opr = s.opr
  request : t.request = s.request
  start : t.ctl.start = s.ctl.start
  bus : t.bus = s.bus ∨ ∃ ev, t.bus.trace = s.bus.trace ++ [ev]

theorem tickEffect_iff {s t : State} : TickEffect s t ↔ t.opr = s.opr ∧ t.request = s.request ∧
    t.ctl.start = s.ctl.start ∧ (t.bus = s.bus ∨ ∃ ev, t.bus.trace = s.bus.trace ++ [ev]) :=
  ⟨fun h => ⟨h.opr, h.request, h.start, h.bus⟩, fun ⟨ho, hq, hs, hb⟩ => ⟨ho, hq, hs, hb⟩⟩

theorem TickEffect.ite {s t t' : State} {c : Prop} [Decidable c] (h : TickEffect s t) (h' : TickEffect s t') :
    TickEffect s (if c then t else t') := by
  split
  · exact h
  · exact h'

theorem tickCrc_effect (p : Config.Params) (u : CrcUser) (c : CrcPos) (s : State) : TickEffect s (tickCrc p u c s) := by
  cases c with
  | clear r | flush r => cases r <;> simp [tickCrc, tickEffect_iff]
  | fifo => exact .ite (by simp [tickEffect_iff]) (by simp [tickEffect_iff])
  | _ => simp [tickCrc, tickEffect_iff]

theorem tickExec_effect (p : Config.Params) (u : ExecUser) (x : ExecPos) (s : State) : TickEffect s (tickExec p u x s) := by
  cases x with
  | clear r | flush r | send r | stop r => cases r <;> simp [tickExec, tickEffect_iff]
  | fifo | drain => exact .ite (by simp [tickEffect_iff]) (by simp [tickEffect_iff])
  | _ => simp [tickExec, tickEffect_iff]

theorem tickInit_effect (p : Config.Params) (k : Nat) (r : RmwPos) (s : State) : TickEffect s (tickInit p k r s) := by
  unfold tickInit
  split <;> simp [tickEffect_iff]

/-- A tick is one bus transaction, one delay request or a register-only update (R10). -/
theorem tick_effect (p : Config.Params) (s : State) : TickEffect s (tick p s) := by
  cases hq : s.ctl.seq with
  | inCrc u c => simpa only [tick, hq] using tickCrc_effect p u c s
  | inExec u x => simpa only [tick, hq] using tickExec_effect p u x s
  | initItem k r => simpa only [tick, hq] using tickInit_effect p k r s
  | setbits r | clrbits r | waitpresentClear r => cases r <;> simp [tick, hq, tickEffect_iff]
  | calccrcLoad | tocardLoad | waitpresentTest | waitremovedTest | waitremovedMatch =>
    simp only [tick, hq]
    exact .ite (by simp [tickEffect_iff]) (by simp [tickEffect_iff])
  | _ => simp [tick, hq, tickEffect_iff, bodyReadreg, bodyWritereg, bodyClassify]

end Sys2Proof.Proofs

/-! PROOF. Runs of the sequencer: `SEQ` is moved position by position along the step list of each operation, and the data it
leaves is that of the operation's meaning. -/

namespace Sys2Proof.Proofs

open Sys2Proof.Machine Sys2Proof.Safety

/-! ### Runs by ticks. -/

/-- The sequencer gets from `s` to `t`, and is busy in every state it leaves on the way. -/
def Reaches (p : Config.Params) (s t : State) : Prop :=
  ∃ n, ticks p n s = t ∧ ∀ m, m < n → (ticks p m s).ctl.busy = true

theorem Reaches.refl (p : Config.Params) (s : State) : Reaches p s s := ⟨0, rfl, by simp⟩

/-- One tick from a busy state, then a run. -/
theorem Reaches.head {p : Config.Params} {s t : State} (hb : s.ctl.busy = true) (h : Reaches p (tick p s) t) :
    Reaches p s t := by
  obtain ⟨n, hn, hbusy⟩ := h
  refine ⟨n + 1, hn, fun m hm => ?_⟩
  cases m with
  | zero => exact hb
  | succ m => exact hbusy m (by omega)

theorem ticks_add (p : Config.Params) (m n : Nat) (s : State) : ticks p (m + n) s = ticks p n (ticks p m s) := by
  induction m generalizing s with
  | zero => simp [ticks]
  | succ m ih => rw [Nat.succ_add]; exact ih (tick p s)

theorem Reaches.trans {p : Config.Params} {s t u : State} (h : Reaches p s t) (k : Reaches p t u) : Reaches p s u := by
  obtain ⟨n, rfl, hn⟩ := h
  obtain ⟨m, rfl, hm⟩ := k
  refine ⟨n + m, ticks_add p n m s, fun j hj => ?_⟩
  by_cases hjn : j < n
  · exact hn j hjn
  · rw [show j = n + (j - n) by omega, ticks_add]
    exact hm (j - n) (by omega)

/-! A state `takeStart q s` holds the data of `s` with the sequencer busy at `q`. -/

/-- One position: the sequencer at `q` does one tick. -/
theorem Reaches.one {p : Config.Params} {q : Seq} {s t : State} (h : tick p (takeStart q s) = t) :
    Reaches p (takeStart q s) t :=
  .head rfl (h ▸ .refl p _)

/-- Two positions, as a read-modify-write or a poll turn has. -/
theorem Reaches.two {p : Config.Params} {q q' : Seq} {s s' t : State} (h : tick p (takeStart q s) = takeStart q' s')
    (h' : tick p (takeStart q' s') = t) : Reaches p (takeStart q s) t :=
  .head rfl (h ▸ .one h')

/-- A part of a step list: at `q` the sequencer does `f` to the data and comes to `q'`. -/
def Leads (p : Config.Params) (q : Seq) (f : State → State) (q' : Seq) : Prop :=
  ∀ s, Reaches p (takeStart q s) (takeStart q' (f s))

theorem Leads.trans {p : Config.Params} {q q' q'' : Seq} {f g : State → State} (h : Leads p q f q') (k : Leads p q' g q'') :
    Leads p q (fun s => g (f s)) q'' :=
  fun s => (h s).trans (k (f s))

/-- The end of an operation does not depend on the position it is reached from. -/
theorem finish_takeStart (q : Seq) {s : State} (h : s.ctl.start = false) : finish (takeStart q s) = finish s :=
  state_eq (by simp) (by simp) (by simp) (by simp [h]) (by simp) (by simp)

/-- The last position of an operation. -/
theorem Reaches.last {p : Config.Params} {q : Seq} {s t : State} (h : tick p (takeStart q s) = finish (takeStart q t))
    (ht : t.ctl.start = false) : Reaches p (takeStart q s) (finish t) :=
  .one (h.trans (finish_takeStart q ht))

/-! ### Counted loops. -/

/-- A loop over the index `I`: while `I` is below the limit the sequencer stays at `q` and does a turn, then it goes on to `q'`. -/
theorem counted_loop_reaches {p : Config.Params} {q q' : Seq} {turn : State → State} {limit : State → Nat}
    {loop : Nat → State → State} (loop_zero : ∀ s, loop 0 s = s) (loop_succ : ∀ k s, loop (k + 1) s = loop k (turn s))
    (turn_i : ∀ s, (turn s).hid.i = s.hid.i + 1) (turn_limit : ∀ s, limit (turn s) = limit s)
    (at_q : ∀ s, tick p (takeStart q s) = if s.hid.i.toNat < limit s then takeStart q (turn s) else takeStart q' s) (k : Nat) :
    ∀ s, s.hid.i.toNat + k = limit s → limit s < 128 → Reaches p (takeStart q s) (takeStart q' (loop k s)) := by
  induction k with
  | zero =>
    intro s hk _
    have : ¬ s.hid.i.toNat < limit s := by omega
    exact .one (by rw [at_q, if_neg this, loop_zero])
  | succ k ih =>
    intro s hk hl
    have hlt : s.hid.i.toNat < limit s := by omega
    have hi : (turn s).hid.i.toNat = s.hid.i.toNat + 1 := by
      rw [turn_i, BitVec.toNat_add]; simp; omega
    have hrun := ih (turn s) (by rw [hi, turn_limit]; omega) (by rw [turn_limit]; exact hl)
    rw [loop_succ]
    exact (Reaches.one (by rw [at_q, if_pos hlt])).trans hrun

/-! ### `Crc` (R161). -/

section Crc

variable (p : Config.Params) (u : CrcUser)

theorem crc_clear_leads : Leads p (.inCrc u (.clear .read)) (clearBits p p.regCrcirq p.crcDone) (.inCrc u (.flush .read)) :=
  fun s => .two (s' := readTmp p p.regCrcirq s) (q' := .inCrc u (.clear .write)) rfl rfl

theorem crc_flush_leads : Leads p (.inCrc u (.flush .read)) (setBits p regFifolevel p.fifoFlush) (.inCrc u .fifoStart) :=
  fun s => .two (s' := readTmp p regFifolevel s) (q' := .inCrc u (.flush .write)) rfl rfl

/-- The length a `Crc` runs over hangs on `FLEN` alone. -/
theorem crcLength_congr {s t : State} (h : t.hid.flen = s.hid.flen) : crcLength u t = crcLength u s := by
  cases u with
  | calccrc => exact congrArg BitVec.toNat h
  | select => rfl
  | halt => rfl

theorem crcLength_lt (s : State) : crcLength u s < 128 := by
  have := s.hid.flen.isLt
  cases u <;> simp only [crcLength] <;> omega

theorem crc_fifo_reaches (s : State) :
    Reaches p (takeStart (.inCrc u .fifoStart) s) (takeStart (.inCrc u .command) (fifoWrite (crcLength u s) s)) := by
  have at_fifo : ∀ s, tick p (takeStart (.inCrc u .fifo) s) =
      if s.hid.i.toNat < crcLength u s then takeStart (.inCrc u .fifo) (fifoPush s) else takeStart (.inCrc u .command) s :=
    fun s => by cases u <;> rfl
  have start : Reaches p (takeStart (.inCrc u .fifoStart) s) (takeStart (.inCrc u .fifo) (setI 0 s)) := .one rfl
  have hlen : crcLength u (setI 0 s) = crcLength u s := crcLength_congr u (by simp)
  refine start.trans (counted_loop_reaches (loop := fifoPushes) (fun _ => rfl) (fun _ _ => rfl) (by simp)
    (fun s => crcLength_congr u (by simp)) at_fifo _ (setI 0 s) ?_ (crcLength_lt u _))
  rw [hlen, setI_hid]; exact Nat.zero_add _

theorem crc_command_leads : Leads p (.inCrc u .command) (issueCommand cmdCalccrcByte) (.inCrc u .pollStart) :=
  fun _ => .one rfl

theorem crc_pollStart_leads :
    Leads p (.inCrc u .pollStart) (setCnt (BitVec.ofNat 16 crcPollMax)) (.inCrc u .pollRead) :=
  fun _ => .one rfl

/-- One turn of the poll: the read, the decrement and the test. -/
theorem crc_turn_reaches (s : State) : Reaches p (takeStart (.inCrc u .pollRead) s)
    (takeStart (.inCrc u (if crcPollDone p (crcPollTurn p s).hid then .resultLo else .pollRead)) (crcPollTurn p s)) :=
  .two (s' := readN p p.regCrcirq s) (q' := .inCrc u .pollTest) rfl rfl

/-- The counter ends the poll (R162). -/
theorem crcPollDone_of_cnt {h : Hidden} (hc : h.cnt.toNat = 0) : crcPollDone p h = true := by
  simp [crcPollDone, eq_ofNat_of_toNat hc]

theorem crc_poll_reaches (f : Nat) : ∀ s : State, s.hid.cnt.toNat = f + 1 →
    Reaches p (takeStart (.inCrc u .pollRead) s) (takeStart (.inCrc u .resultLo) (crcPoll p (f + 1) s)) := by
  induction f with
  | zero =>
    intro s hc
    have hdone : crcPollDone p (crcPollTurn p s).hid = true := crcPollDone_of_cnt p (by simpa using toNat_sub_one hc)
    have hturn := crc_turn_reaches p u s
    simp only [crcPoll, hdone, if_true] at hturn ⊢
    exact hturn
  | succ f ih =>
    intro s hc
    have hcnt : (crcPollTurn p s).hid.cnt.toNat = f + 1 := by simpa using toNat_sub_one hc
    have hturn := crc_turn_reaches p u s
    rw [crcPoll]
    by_cases hdone : crcPollDone p (crcPollTurn p s).hid = true
    · simp only [hdone, if_true] at hturn ⊢
      exact hturn
    · simp only [hdone, Bool.false_eq_true, if_false] at hturn ⊢
      exact hturn.trans (ih _ hcnt)

theorem crc_results_leads : Leads p (.inCrc u .resultLo) (fun s => readC1 p (readC0 p s)) (afterCrc u) :=
  fun s => .two (s' := readC0 p s) (q' := .inCrc u .resultMid) rfl rfl

/-- The positions of `Crc` do what the sequence `Crc` does. -/
theorem crc_reaches (s : State) :
    Reaches p (takeStart (.inCrc u (.clear .read)) s) (takeStart (afterCrc u) (crc p (crcLength u s) s)) := by
  have opening := (crc_clear_leads p u).trans (crc_flush_leads p u) s
  have fifo := crc_fifo_reaches p u (setBits p regFifolevel p.fifoFlush (clearBits p p.regCrcirq p.crcDone s))
  rw [crcLength_congr u (t := setBits _ _ _ _) (s := s) (by simp)] at fifo
  have command := (crc_command_leads p u).trans (crc_pollStart_leads p u)
  have poll := crc_poll_reaches p u 254
  exact opening.trans (fifo.trans ((command _).trans ((poll _ (by simp [crcPollMax])).trans (crc_results_leads p u _))))

end Crc

/-! ### `Exec` (R181). -/

section Exec

variable (p : Config.Params) (u : ExecUser)

theorem exec_setup_reaches (s : State) :
    Reaches p (takeStart (.inExec u .setup) s) (takeStart (.inExec u .enable) (execSetup (execByte u s) s)) := by
  cases u <;> exact .one rfl

/-- Steps 2 to 4 up to Idle. -/
theorem exec_prepare_leads : Leads p (.inExec u .enable)
    (fun s => issueCommand cmdIdleByte (setBits p regFifolevel p.fifoFlush (clearIrq p (execEnable p s))))
    (.inExec u .fifoStart) := by
  have enable : Leads p (.inExec u .enable) (execEnable p) (.inExec u (.clear .read)) := fun _ => .one rfl
  have clear : Leads p (.inExec u (.clear .read)) (clearIrq p) (.inExec u (.flush .read)) :=
    fun s => .two (s' := readTmp p p.regIrqst s) (q' := .inExec u (.clear .write)) rfl rfl
  have flush : Leads p (.inExec u (.flush .read)) (setBits p regFifolevel p.fifoFlush) (.inExec u .idle) :=
    fun s => .two (s' := readTmp p regFifolevel s) (q' := .inExec u (.flush .write)) rfl rfl
  have idle : Leads p (.inExec u .idle) (issueCommand cmdIdleByte) (.inExec u .fifoStart) := fun _ => .one rfl
  exact ((enable.trans clear).trans flush).trans idle

theorem exec_fifo_leads : Leads p (.inExec u .fifoStart) execFifo (.inExec u .command) := by
  intro s
  have start : Reaches p (takeStart (.inExec u .fifoStart) s) (takeStart (.inExec u .fifo) (setI 0 s)) := .one rfl
  refine start.trans (counted_loop_reaches (loop := fifoPushes) (limit := fun s => s.hid.flen.toNat) (fun _ => rfl)
    (fun _ _ => rfl) (by simp) (by simp) (fun _ => rfl) _ (setI 0 s) ?_ (setI 0 s).hid.flen.isLt)
  simp

/-- The command of step 4, and step 5. -/
theorem exec_send_leads : Leads p (.inExec u .command) (fun s => execSend p (execCommand s)) (.inExec u .pollStart) := by
  intro s
  have hcmdr : (execCommand s).hid.cmdr = s.hid.cmdr := by simp
  have command : Reaches p (takeStart (.inExec u .command) s) (takeStart
      (.inExec u (if s.hid.cmdr = cmdTransceiveByte then .send .read else .pollStart)) (execCommand s)) := .one rfl
  by_cases ht : s.hid.cmdr = cmdTransceiveByte
  · have send : Leads p (.inExec u (.send .read)) (setBits p regBitframing p.startSend) (.inExec u .pollStart) :=
      fun s => .two (s' := readTmp p regBitframing s) (q' := .inExec u (.send .write)) rfl rfl
    simp only [execSend, hcmdr, ht, if_true] at command ⊢
    exact command.trans (send _)
  · simp only [execSend, hcmdr, ht, if_false] at command ⊢
    exact command

theorem exec_pollStart_leads :
    Leads p (.inExec u .pollStart) (setCnt (BitVec.ofNat 16 execPollMax)) (.inExec u .pollRead) :=
  fun _ => .one rfl

/-- One turn of the poll: the read, the decrement and the test. -/
theorem exec_turn_reaches (s : State) : Reaches p (takeStart (.inExec u .pollRead) s)
    (takeStart (.inExec u (if execPollDone p (execPollTurn p s).hid then .stop .read else .pollDelay)) (execPollTurn p s)) :=
  .two (s' := readN p p.regIrqst s) (q' := .inExec u .pollTest) rfl rfl

/-- The counter ends the poll (R188). -/
theorem execPollDone_of_cnt {h : Hidden} (hc : h.cnt.toNat = 0) : execPollDone p h = true := by
  simp [execPollDone, eq_ofNat_of_toNat hc]

theorem exec_poll_reaches (f : Nat) : ∀ s : State, s.hid.cnt.toNat = f + 1 →
    Reaches p (takeStart (.inExec u .pollRead) s) (takeStart (.inExec u (.stop .read)) (execPoll p (f + 1) s)) := by
  induction f with
  | zero =>
    intro s hc
    have hdone : execPollDone p (execPollTurn p s).hid = true := execPollDone_of_cnt p (by simpa using toNat_sub_one hc)
    have hturn := exec_turn_reaches p u s
    simp only [execPoll, hdone, if_true] at hturn ⊢
    exact hturn
  | succ f ih =>
    intro s hc
    have hcnt : (delay execPollDelayMs (execPollTurn p s)).hid.cnt.toNat = f + 1 := by simpa using toNat_sub_one hc
    have hturn := exec_turn_reaches p u s
    rw [execPoll]
    by_cases hdone : execPollDone p (execPollTurn p s).hid = true
    · simp only [hdone, if_true] at hturn ⊢
      exact hturn
    · have wait : Leads p (.inExec u .pollDelay) (delay execPollDelayMs) (.inExec u .pollRead) := fun _ => .one rfl
      simp only [hdone, Bool.false_eq_true, if_false] at hturn ⊢
      exact hturn.trans ((wait _).trans (ih _ hcnt))

/-- Step 7, with the test of the timeout path (R195). -/
theorem exec_stop_reaches (s : State) : Reaches p (takeStart (.inExec u (.stop .read)) s)
    (takeStart (if (execStop p s).hid.cnt = 0 then afterExec u else .inExec u .errorRead) (execStop p s)) :=
  .two (s' := readTmp p regBitframing s) (q' := .inExec u (.stop .write)) rfl rfl

/-- The reception of step 8. -/
theorem exec_receive_leads : Leads p (.inExec u .level) (execReceive p) (afterExec u) := by
  have level : Leads p (.inExec u .level) (readL p) (.inExec u .control) := fun _ => .one rfl
  have control : Leads p (.inExec u .control) (readLastbits p) (.inExec u .count) := fun _ => .one rfl
  have count : Leads p (.inExec u .count) execCount (.inExec u .drain) := fun _ => .one rfl
  intro s
  refine ((level.trans control).trans count s).trans (counted_loop_reaches (loop := drains p) (turn := drainOne p)
    (limit := fun s => s.hid.xlen.toNat) (fun _ => rfl) (fun _ _ => rfl) (by simp) (by simp) (fun _ => rfl) _ _ ?_ ?_)
  · simp
  · have := drainCount_le (readLastbits p (readL p s)).hid.l
    simp only [execCount_hid]
    omega

/-- Step 8. -/
theorem exec_result_leads : Leads p (.inExec u .errorRead) (execResult p) (afterExec u) := by
  intro s
  have judge : Reaches p (takeStart (.inExec u .errorRead) s) (takeStart (if anyBit (execJudge p (readE p s)).hid.e errMask
      then afterExec u else if (execJudge p (readE p s)).hid.cmdr = cmdTransceiveByte then .inExec u .level else afterExec u)
      (execJudge p (readE p s))) := .two (s' := readE p s) (q' := .inExec u .judge) rfl rfl
  simp only [execResult]
  split_ifs at judge ⊢
  · exact judge
  · exact judge.trans (exec_receive_leads p u _)
  · exact judge

/-- Steps 7 to 9. -/
theorem exec_conclude_leads :
    Leads p (.inExec u (.stop .read)) (fun s => execConclude p (execStop p s)) (afterExec u) := by
  intro s
  have stop := exec_stop_reaches p u s
  simp only [execConclude]
  split_ifs at stop ⊢
  · exact stop
  · exact stop.trans (exec_result_leads p u _)

/-- The positions of `Exec` do what the sequence `Exec` does. -/
theorem executor_reaches (s : State) :
    Reaches p (takeStart (.inExec u .setup) s) (takeStart (afterExec u) (executor p (execByte u s) s)) := by
  have opening := (((exec_prepare_leads p u).trans (exec_fifo_leads p u)).trans (exec_send_leads p u)).trans
    (exec_pollStart_leads p u)
  have poll := exec_poll_reaches p u 1999
  exact (exec_setup_reaches p u s).trans ((opening _).trans
    ((poll _ (by simp [execPollMax])).trans (exec_conclude_leads p u _)))

end Exec

end Sys2Proof.Proofs

/-! PROOF. The operations: the sequencer, started at an operation's first position, ends where the operation's meaning ends. -/

namespace Sys2Proof.Proofs

open Sys2Proof.Machine Sys2Proof.Safety

/-- Started at `q`, the sequencer does `body` to the data and ends the operation. -/
def Performs (p : Config.Params) (q : Seq) (body : State → State) : Prop :=
  ∀ s : State, s.ctl.start = false → Reaches p (takeStart q s) (finish (body s))

theorem crc_keeps_ctl (p : Config.Params) (k : Nat) (s : State) (hk : k ≤ 64) : (crc p k s).ctl = s.ctl := by
  obtain ⟨⟨-, -, hctl, -⟩, -⟩ := crc_cases p k s hk
  exact hctl

theorem executor_keeps_ctl (p : Config.Params) (cmd : Byte) (s : State) (hf : s.hid.flen.toNat ≤ 64) :
    (executor p cmd s).ctl = s.ctl := by
  obtain ⟨⟨-, -, hctl, -⟩, -⟩ := executor_cases p cmd s hf
  exact hctl

section Operations

variable (p : Config.Params)

/-! ### Register access, the classifier and the reserved codes. -/

theorem readreg_performs : Performs p .readreg (bodyReadreg p) := fun s h => .last rfl (by simpa [bodyReadreg] using h)

theorem writereg_performs : Performs p .writereg bodyWritereg := fun s h => .last rfl (by simpa [bodyWritereg] using h)

theorem setbits_performs : Performs p (.setbits .read) (bodySetbits p) := by
  intro s h
  have read : Leads p (.setbits .read) (fun s => readTmp p s.opr.a s) (.setbits .write) := fun _ => .one rfl
  exact (read s).trans (.last rfl (by simpa [bodySetbits] using h))

theorem clrbits_performs : Performs p (.clrbits .read) (bodyClrbits p) := by
  intro s h
  have read : Leads p (.clrbits .read) (fun s => readTmp p s.opr.a s) (.clrbits .write) := fun _ => .one rfl
  exact (read s).trans (.last rfl (by simpa [bodyClrbits] using h))

theorem classify_performs : Performs p .classify bodyClassify := fun s h => .last rfl (by simpa [bodyClassify] using h)

theorem reservedE_performs : Performs p .reservedE refuse := fun s h => .last rfl (by simpa using h)

theorem reservedF_performs : Performs p .reservedF refuse := fun s h => .last rfl (by simpa using h)

/-! ### The operations over `BUF` and `LEN`. -/

theorem calccrc_performs : Performs p .calccrcLoad (bodyCalccrc p) := by
  intro s h
  have load : tick p (takeStart .calccrcLoad s) = if fifoCapacity < s.opr.len.toNat
      then finish (takeStart .calccrcLoad (refuse s)) else takeStart (.inCrc .calccrc (.clear .read)) (loadFrame s) := rfl
  unfold bodyCalccrc
  split_ifs at load ⊢ with hlen
  · exact .last load (by simpa using h)
  · have hctl := crc_keeps_ctl p s.opr.len.toNat (loadFrame s) (Nat.le_of_not_lt hlen)
    exact (Reaches.one load).trans ((crc_reaches p .calccrc (loadFrame s)).trans (.last rfl (by simpa [hctl] using h)))

theorem tocard_performs : Performs p .tocardLoad (bodyTocard p) := by
  intro s h
  have load : tick p (takeStart .tocardLoad s) = if fifoCapacity < s.opr.len.toNat
      then finish (takeStart .tocardLoad (refuse s)) else takeStart (.inExec .tocard .setup) (loadFrame s) := rfl
  unfold bodyTocard
  split_ifs at load ⊢ with hlen
  · exact .last load (by simpa using h)
  · have hctl := executor_keeps_ctl p s.opr.d (loadFrame s) (by simpa [fifoCapacity] using hlen)
    exact (Reaches.one load).trans ((executor_reaches p .tocard (loadFrame s)).trans (.last rfl (by simpa [hctl] using h)))

/-! ### The frames the engine builds. -/

theorem ispresent_performs : Performs p .ispresentFraming (bodyIspresent p) := by
  intro s h
  have frame : Leads p .ispresentFraming (fun s => frameRequest s.opr.d (busWrite regBitframing p.bitframingShort s))
      (.inExec .ispresent .setup) :=
    fun s => .two (s' := busWrite regBitframing p.bitframingShort s) (q' := .ispresentFrame) rfl rfl
  have hctl := executor_keeps_ctl p cmdTransceiveByte
    (frameRequest s.opr.d (busWrite regBitframing p.bitframingShort s)) (by simp)
  exact (frame s).trans ((executor_reaches p .ispresent _).trans
    (.last rfl (by simpa [bodyIspresent, sendRequest, transceive, hctl] using h)))

theorem readuid_performs : Performs p .readuidFraming (bodyReaduid p) := by
  intro s h
  have frame : Leads p .readuidFraming (fun s => frameAnticollision (busWrite regBitframing p.bitframingFull s))
      (.inExec .readuid .setup) :=
    fun s => .two (s' := busWrite regBitframing p.bitframingFull s) (q' := .readuidFrame) rfl rfl
  have hctl := executor_keeps_ctl p cmdTransceiveByte (frameAnticollision (busWrite regBitframing p.bitframingFull s)) (by simp)
  exact (frame s).trans ((executor_reaches p .readuid _).trans
    (.last rfl (by simpa [bodyReaduid, sendAnticollision, transceive, hctl] using h)))

theorem select_performs : Performs p .selectFrame (bodySelect p) := by
  intro s h
  have frame : Leads p .selectFrame (fun s => frameSelectHead (uidOperand s.opr) s) (.inCrc .select (.clear .read)) :=
    fun _ => .one rfl
  have append : Leads p .selectAppend (fun s => appendCrc 7 s.hid.c0 s.hid.c1 s) (.inExec .select .setup) := fun _ => .one rfl
  have hcrc := crc_keeps_ctl p 7 (frameSelectHead (uidOperand s.opr) s) (by omega)
  have hexec := fun c0 c1 t => executor_keeps_ctl p cmdTransceiveByte (appendCrc 7 c0 c1 t) (by simp)
  exact (frame s).trans ((crc_reaches p .select _).trans ((append _).trans ((executor_reaches p .select _).trans
    (.last rfl (by simpa [bodySelect, sendSelect, transceive, hexec, hcrc] using h)))))

theorem halt_performs : Performs p .haltFrame (bodyHalt p) := by
  intro s h
  have frame : Leads p .haltFrame frameHaltHead (.inCrc .halt (.clear .read)) := fun _ => .one rfl
  have append : Leads p .haltAppend (fun s => appendCrc 2 s.hid.c0 s.hid.c1 s) (.inExec .halt .setup) := fun _ => .one rfl
  have hcrc := crc_keeps_ctl p 2 (frameHaltHead s) (by omega)
  have hexec := fun c0 c1 t => executor_keeps_ctl p cmdTransceiveByte (appendCrc 2 c0 c1 t) (by simp)
  exact (frame s).trans ((crc_reaches p .halt _).trans ((append _).trans ((executor_reaches p .halt _).trans
    (.last rfl (by simpa [bodyHalt, sendHalt, transceive, hexec, hcrc] using h)))))

/-! ### The two wait operations. -/

/-- A counter that is not zero and below `f + 1` is below `f` once counted down. -/
theorem toNat_sub_one_lt {c : BitVec 16} {f : Nat} (h : c.toNat < f + 1) (h0 : c ≠ 0) : (c - 1).toNat < f := by
  have hpos : c.toNat ≠ 0 := fun hz => h0 (BitVec.eq_of_toNat_eq (by simpa using hz))
  have := toNat_sub_one (c := c) (f := c.toNat - 1) (by omega)
  omega

theorem waitPresentLoop_reaches (f : Nat) : ∀ s : State, s.hid.cnt.toNat < f → s.ctl.start = false →
    Reaches p (takeStart .waitpresentTest s) (finish (waitPresentLoop p f s)) := by
  induction f with
  | zero => intro s hf; omega
  | succ f ih =>
    intro s hf h
    have test : tick p (takeStart .waitpresentTest s) = if s.hid.cnt = 0
        then finish (takeStart .waitpresentTest (setFlag false s)) else takeStart .waitpresentFraming s := rfl
    rw [waitPresentLoop]
    by_cases h0 : s.hid.cnt = 0
    · rw [if_pos h0] at test ⊢
      exact .last test (by simpa using h)
    rw [if_neg h0] at test ⊢
    have poll : Reaches p (takeStart .waitpresentFraming s)
        (takeStart .waitpresentMatch (readN p p.regIrqst (busWrite regBitframing p.presentBitframing s))) :=
      .two (s' := busWrite regBitframing p.presentBitframing s) (q' := .waitpresentPoll) rfl rfl
    generalize ht : readN p p.regIrqst (busWrite regBitframing p.presentBitframing s) = t at poll ⊢
    have reach_match := (Reaches.one test).trans poll
    have hmatch : Reaches p (takeStart .waitpresentMatch t) (takeStart
        (if p.presentMatch t.hid.n then .waitpresentClear .read else .waitpresentDelay) t) := .one rfl
    by_cases hm : p.presentMatch t.hid.n = true
    · have clear : Leads p (.waitpresentClear .read) (clearIrq p) .waitpresentFound :=
        fun s => .two (s' := readTmp p p.regIrqst s) (q' := .waitpresentClear .write) rfl rfl
      have found : Reaches p (takeStart .waitpresentFound (clearIrq p t)) (finish (setFlag true (clearIrq p t))) :=
        .last rfl (by simpa [clearIrq, ← ht] using h)
      simp only [hm, if_true] at hmatch ⊢
      exact reach_match.trans (hmatch.trans ((clear t).trans found))
    · have wait : Leads p .waitpresentDelay (fun s => countDown (delay presentDelayMs s)) .waitpresentTest :=
        fun s => .two (s' := delay presentDelayMs s) (q' := .waitpresentCount) rfl rfl
      have hnext := ih (countDown (delay presentDelayMs t)) (by simpa [← ht] using toNat_sub_one_lt hf h0)
        (by simpa [← ht] using h)
      simp only [hm, Bool.false_eq_true, if_false] at hmatch ⊢
      exact reach_match.trans (hmatch.trans ((wait t).trans hnext))

theorem waitpresent_performs : Performs p .waitpresentStart (bodyWaitpresent p) := by
  intro s h
  have start : Leads p .waitpresentStart (fun s => setCnt s.opr.t s) .waitpresentTest := fun _ => .one rfl
  exact (start s).trans (waitPresentLoop_reaches p _ _ (by simp) (by simpa using h))

theorem waitRemovedLoop_reaches (f : Nat) : ∀ s : State, s.hid.cnt.toNat < f → s.ctl.start = false →
    Reaches p (takeStart .waitremovedTest s) (finish (waitRemovedLoop p f s)) := by
  induction f with
  | zero => intro s hf; omega
  | succ f ih =>
    intro s hf h
    have test : tick p (takeStart .waitremovedTest s) = if s.hid.cnt = 0
        then finish (takeStart .waitremovedTest (setFlag false s)) else takeStart .waitremovedPoll s := rfl
    rw [waitRemovedLoop]
    by_cases h0 : s.hid.cnt = 0
    · rw [if_pos h0] at test ⊢
      exact .last test (by simpa using h)
    rw [if_neg h0] at test ⊢
    have poll : Reaches p (takeStart .waitremovedPoll s) (takeStart .waitremovedMatch (readN p p.regIrqst s)) := .one rfl
    generalize ht : readN p p.regIrqst s = t at poll ⊢
    have reach_match := (Reaches.one test).trans poll
    have hmatch : tick p (takeStart .waitremovedMatch t) = if p.removedMatch t.hid.n
        then finish (takeStart .waitremovedMatch (setFlag true t)) else takeStart .waitremovedDelay t := rfl
    by_cases hm : p.removedMatch t.hid.n = true
    · simp only [hm, if_true] at hmatch ⊢
      exact reach_match.trans (.last hmatch (by simpa [← ht] using h))
    · have wait : Leads p .waitremovedDelay (fun s => countDown (delay removedDelayMs s)) .waitremovedTest :=
        fun s => .two (s' := delay removedDelayMs s) (q' := .waitremovedCount) rfl rfl
      have hnext := ih (countDown (delay removedDelayMs t)) (by simpa [← ht] using toNat_sub_one_lt hf h0)
        (by simpa [← ht] using h)
      simp only [hm, Bool.false_eq_true, if_false] at hmatch ⊢
      exact reach_match.trans ((Reaches.one hmatch).trans ((wait t).trans hnext))

theorem waitremoved_performs : Performs p .waitremovedFraming (bodyWaitremoved p) := by
  intro s h
  have start : Leads p .waitremovedFraming (fun s => setCnt s.opr.t (busWrite regBitframing p.bitframingFull s))
      .waitremovedTest := fun s => .two (s' := busWrite regBitframing p.bitframingFull s) (q' := .waitremovedStart) rfl rfl
  exact (start s).trans (waitRemovedLoop_reaches p _ _ (by simp) (by simpa using h))

/-! ### INIT. -/

theorem initItem_opr (it : Config.InitStep) (s : State) : (initItem p it s).opr = s.opr := by
  cases it <;> simp [initItem]

/-- The positions of one item of `INIT_SEQUENCE` (R278). -/
theorem initItem_reaches {k : Nat} {it : Config.InitStep} {s : State} (h : (p.initSequence s.opr.d)[k]? = some it) :
    Reaches p (takeStart (.initItem k .read) s) (takeStart (.initItem (k + 1) .read) (initItem p it s)) := by
  have at_item : ∀ r t, tick p (takeStart (.initItem k r) t) = tickInit p k r (takeStart (.initItem k r) t) := fun _ _ => rfl
  cases it with
  | w a v => exact .one (by simp only [at_item, tickInit, takeStart_opr, h]; rfl)
  | dly ms => exact .one (by simp only [at_item, tickInit, takeStart_opr, h]; rfl)
  | s a m =>
    exact .two (s' := readTmp p a s) (q' := .initItem k .write) (by simp only [at_item, tickInit, takeStart_opr, h]; rfl)
      (by simp only [at_item, tickInit, takeStart_opr, readTmp_opr, h]; rfl)
  | c a m =>
    exact .two (s' := readTmp p a s) (q' := .initItem k .write) (by simp only [at_item, tickInit, takeStart_opr, h]; rfl)
      (by simp only [at_item, tickInit, takeStart_opr, readTmp_opr, h]; rfl)

theorem initItems_reaches (its : List Config.InitStep) : ∀ (k : Nat) (s : State), (p.initSequence s.opr.d).drop k = its →
    Reaches p (takeStart (.initItem k .read) s) (takeStart .initVersion (initItems p its s)) := by
  induction its with
  | nil =>
    intro k s h
    have hnone : (p.initSequence s.opr.d)[k]? = none := List.getElem?_eq_none (List.drop_eq_nil_iff.mp h)
    refine .one ?_
    rw [show tick p (takeStart (.initItem k .read) s) = tickInit p k .read (takeStart (.initItem k .read) s) from rfl]
    simp only [tickInit, takeStart_opr, hnone]
    rfl
  | cons it its ih =>
    intro k s h
    have hit : (p.initSequence s.opr.d)[k]? = some it := by
      rw [← Nat.add_zero k, ← List.getElem?_drop, h]; rfl
    have hrest : (p.initSequence (initItem p it s).opr.d).drop (k + 1) = its := by
      rw [initItem_opr, ← List.drop_drop, h]; rfl
    exact (initItem_reaches p hit).trans (ih (k + 1) _ hrest)

theorem init_performs : Performs p .initReset (bodyInit p) := by
  intro s h
  have reset : Leads p .initReset (issueCommand cmdSoftresetByte) (.initItem 0 .read) := fun _ => .one rfl
  have version : Leads p .initVersion (busRead p regVersion) .initResults := fun _ => .one rfl
  obtain ⟨⟨-, -, hctl, -⟩, -⟩ := initItems_cases p (p.initSequence s.opr.d) (issueCommand cmdSoftresetByte s)
  exact (reset s).trans ((initItems_reaches p _ 0 _ rfl).trans ((version _).trans
    (.last rfl (by simpa [bodyInit, hctl] using h))))

end Operations

/-- A host operation is a start, a step list that the sequencer performs, and an end; every code of the operation starts it at the
same position. -/
theorem exists_performs_of_hop {i : Instr} (hi : i.format = .hop) : ∃ q body, (∀ s, exec i s = hostOperation q body s) ∧
    (∀ op, decodeOp op = i → firstPosition op = q) ∧ Performs params q body := by
  cases i with
  | readreg => exact ⟨_, _, fun _ => rfl, fun op h => by simp only [firstPosition, h], readreg_performs _⟩
  | writereg => exact ⟨_, _, fun _ => rfl, fun op h => by simp only [firstPosition, h], writereg_performs _⟩
  | setbits => exact ⟨_, _, fun _ => rfl, fun op h => by simp only [firstPosition, h], setbits_performs _⟩
  | clrbits => exact ⟨_, _, fun _ => rfl, fun op h => by simp only [firstPosition, h], clrbits_performs _⟩
  | calccrc => exact ⟨_, _, fun _ => rfl, fun op h => by simp only [firstPosition, h], calccrc_performs _⟩
  | tocard => exact ⟨_, _, fun _ => rfl, fun op h => by simp only [firstPosition, h], tocard_performs _⟩
  | ispresent => exact ⟨_, _, fun _ => rfl, fun op h => by simp only [firstPosition, h], ispresent_performs _⟩
  | waitpresent => exact ⟨_, _, fun _ => rfl, fun op h => by simp only [firstPosition, h], waitpresent_performs _⟩
  | waitremoved => exact ⟨_, _, fun _ => rfl, fun op h => by simp only [firstPosition, h], waitremoved_performs _⟩
  | readuid => exact ⟨_, _, fun _ => rfl, fun op h => by simp only [firstPosition, h], readuid_performs _⟩
  | select => exact ⟨_, _, fun _ => rfl, fun op h => by simp only [firstPosition, h], select_performs _⟩
  | classify => exact ⟨_, _, fun _ => rfl, fun op h => by simp only [firstPosition, h], classify_performs _⟩
  | halt => exact ⟨_, _, fun _ => rfl, fun op h => by simp only [firstPosition, h], halt_performs _⟩
  | init => exact ⟨_, _, fun _ => rfl, fun op h => by simp only [firstPosition, h], init_performs _⟩
  | reservedE => exact ⟨_, _, fun _ => rfl, fun op h => by simp only [firstPosition, h], reservedE_performs _⟩
  | reservedF => exact ⟨_, _, fun _ => rfl, fun op h => by simp only [firstPosition, h], reservedF_performs _⟩
  | _ => cases hi

theorem decodeOp_format (op : BitVec 4) : (decodeOp op).format = .hop := by
  revert op; decide

end Sys2Proof.Proofs

/-! PROOF. The step of the machine: it waits, takes `START`, or is one tick; its runs end where the meaning of the operation
ends; and whatever it runs, the trace is only added to and the operand registers stay. -/

namespace Sys2Proof.Proofs

open Sys2Proof.Machine Sys2Proof.Safety

/-! ### The sequencer reaches the meaning. -/

/-- An operation started while none runs ends in a state that ticks reach from its first position. -/
theorem exec_reached_of_hop {i : Instr} {s : State} (hi : i.format = .hop) (hb : s.ctl.busy = false) :
    ∃ q t, (∀ op, decodeOp op = i → firstPosition op = q) ∧ exec i s = .next t ∧ Reaches params (takeStart q s) t := by
  obtain ⟨q, body, hexec, hfirst, hperf⟩ := exists_performs_of_hop hi
  exact ⟨q, _, hfirst, by rw [hexec, hostOperation_of_ready hb], hperf (takeStart q s) rfl⟩

/-- Settles O19: position by position along the step lists, with an induction for each loop. -/
theorem ticksReachTheMeaning : Obligations.TicksReachTheMeaning := by
  unfold Obligations.TicksReachTheMeaning
  intro s hb
  obtain ⟨q, t, hfirst, hexec, n, rfl, hbusy⟩ := exec_reached_of_hop (decodeOp_format s.opr.op) hb
  obtain rfl := hfirst s.opr.op rfl
  exact ⟨n, hexec, hbusy⟩

/-! ### The step. -/

theorem step_of_no_request {s : State} (h : s.request = none) : step s = engineStep params s := by
  simp [step, fetch, h]

theorem engineStep_of_start {p : Config.Params} {s : State} (hs : s.ctl.start = true) (hb : s.ctl.busy = false) :
    engineStep p s = .next (launch s) := by
  simp [engineStep, hs, hb]

theorem engineStep_of_overlap {p : Config.Params} {s : State} (hs : s.ctl.start = true) (hb : s.ctl.busy = true) :
    engineStep p s = .fault .overlap := by
  simp [engineStep, hs, hb]

theorem engineStep_of_no_start {p : Config.Params} {s : State} (hs : s.ctl.start = false) :
    engineStep p s = .next (tick p s) := by
  simp [engineStep, hs]

theorem tick_of_idle {p : Config.Params} {s : State} (h : s.ctl.seq = .idle) : tick p s = s := by
  simp [tick, h]

/-- A step of the engine that has a next state takes `START` or is a tick. -/
theorem engineStep_cases {p : Config.Params} {s t : State} (h : engineStep p s = .next t) :
    (s.ctl.start = true ∧ s.ctl.busy = false ∧ t = launch s) ∨ (s.ctl.start = false ∧ t = tick p s) := by
  cases hs : s.ctl.start with
  | false => exact .inr ⟨rfl, by rw [engineStep_of_no_start hs] at h; cases h; rfl⟩
  | true =>
    cases hb : s.ctl.busy with
    | true => rw [engineStep_of_overlap hs hb] at h; cases h
    | false => exact .inl ⟨rfl, rfl, by rw [engineStep_of_start hs hb] at h; cases h; rfl⟩

/-- A step of the machine that has a next state runs a word of the request port or is a step of the engine. -/
theorem step_cases {s t : State} (h : step s = .next t) :
    (∃ i, exec i { s with request := none } = .next t) ∨ engineStep params s = .next t := by
  unfold step fetch at h
  cases hr : s.request with
  | none => exact .inr (by simpa only [hr] using h)
  | some r =>
    cases hd : decode r.format r.bytes with
    | error e => simp only [hr, hd] at h; cases h
    | ok i => exact .inl ⟨i, by simpa only [hr, hd] using h⟩

/-- Settles O10. -/
theorem stepWithoutStart : Obligations.StepWithoutStart := by
  unfold Obligations.StepWithoutStart
  intro s hr hs
  have hstep : step s = .next (tick params s) := (step_of_no_request hr).trans (engineStep_of_no_start hs)
  exact ⟨fun hidle => by rw [hstep, tick_of_idle hidle], fun _ => hstep⟩

/-- Settles O20: a step of the engine is the launch, which leaves the bus alone, or a tick. -/
theorem engineStepIsOneTransaction : Obligations.EngineStepIsOneTransaction := by
  unfold Obligations.EngineStepIsOneTransaction
  refine ⟨fun s t h => ?_, fun s hr => step_of_no_request hr,
    fun s hs => ⟨engineStep_of_start hs, engineStep_of_overlap hs⟩⟩
  obtain ⟨-, -, rfl⟩ | ⟨-, rfl⟩ := engineStep_cases h
  · exact ⟨by simp [launch], by simp [launch], .inl (by simp [launch])⟩
  · obtain ⟨hopr, hreq, -, hbus⟩ := tick_effect params s
    exact ⟨hopr, hreq, hbus⟩

/-! ### Runs by steps. -/

/-- Where no word is requested and `START` is not raised, steps are ticks. -/
theorem runSteps_eq_ticks (n : Nat) : ∀ s : State, s.request = none → s.ctl.start = false →
    runSteps n s = .next (ticks params n s) := by
  induction n with
  | zero => exact fun _ _ _ => rfl
  | succ n ih =>
    intro s hr hs
    have heff := tick_effect params s
    simp only [runSteps, step_of_no_request hr, engineStep_of_no_start hs]
    exact ih (tick params s) (heff.request.trans hr) (heff.start.trans hs)

/-- The first step takes the `START` the host raised, and the others are ticks. -/
theorem runSteps_of_start {s : State} (n : Nat) (hr : s.request = none) (hb : s.ctl.busy = false) (hs : s.ctl.start = true) :
    runSteps (n + 1) s = .next (ticks params n (launch s)) := by
  simp only [runSteps, step_of_no_request hr, engineStep_of_start hs hb]
  exact runSteps_eq_ticks n (launch s) (by simpa [launch] using hr) rfl

/-- The host raises `START` while no operation runs (R26); nothing else that a launch could see changes. -/
theorem hostStart_of_ready {s : State} (hb : s.ctl.busy = false) : ∃ t, hostStart s = .next t ∧
    t.request = s.request ∧ t.ctl.start = true ∧ t.ctl.busy = false ∧ launch t = launch s :=
  ⟨{ s with ctl := { s.ctl with start := true } }, by simp [hostStart, hb], rfl, rfl, hb, rfl⟩

/-- Settles O21: the steps after the start are the ticks of `ticksReachTheMeaning`. -/
theorem stepsRunTheOperation : Obligations.StepsRunTheOperation := by
  unfold Obligations.StepsRunTheOperation
  intro s hr hb
  obtain ⟨n, hexec, hbusy⟩ := ticksReachTheMeaning s hb
  obtain ⟨t, hstart, htr, hts, htb, hlaunch⟩ := hostStart_of_ready hb
  have hrun : ∀ m, runSteps (m + 1) t = .next (ticks params m (launch s)) :=
    fun m => hlaunch ▸ runSteps_of_start m (htr.trans hr) htb hts
  refine ⟨t, hstart, ?_, n, (hrun n).trans hexec.symm, fun m hm => ⟨_, hrun m, hbusy m hm⟩⟩
  rw [step_of_no_request (htr.trans hr), engineStep_of_start hts htb, hlaunch]

/-! ### The trace and the operand registers. -/

/-- The trace is only added to, and the operand registers stay (R15, R22). -/
def Extends (s t : State) : Prop := (∃ evs, t.bus.trace = s.bus.trace ++ evs) ∧ t.opr = s.opr

theorem Extends.of_eq {s t : State} (hb : t.bus = s.bus) (ho : t.opr = s.opr) : Extends s t := ⟨⟨[], by simp [hb]⟩, ho⟩

theorem Extends.trans {s t u : State} (h : Extends s t) (k : Extends t u) : Extends s u := by
  obtain ⟨⟨a, ha⟩, ho⟩ := h
  obtain ⟨⟨b, hb⟩, ho'⟩ := k
  exact ⟨⟨a ++ b, by rw [hb, ha, List.append_assoc]⟩, ho'.trans ho⟩

theorem TickEffect.extends {s t : State} (h : TickEffect s t) : Extends s t := by
  obtain hb | ⟨ev, hb⟩ := h.bus
  · exact .of_eq hb h.opr
  · exact ⟨⟨[ev], hb⟩, h.opr⟩

theorem Reaches.extends {p : Config.Params} {s t : State} (h : Reaches p s t) : Extends s t := by
  obtain ⟨n, rfl, -⟩ := h
  induction n generalizing s with
  | zero => exact .of_eq rfl rfl
  | succ n ih => exact (tick_effect p s).extends.trans ih

theorem busRead_extends (p : Config.Params) (a : Byte) (s : State) : Extends s (busRead p a s) :=
  ⟨⟨[.rd (a.setWidth 6) (nextAnswer s.bus)], by simp⟩, by simp⟩

theorem busWrite_extends (a v : Byte) (s : State) : Extends s (busWrite a v s) :=
  ⟨⟨[.wr (a.setWidth 6) v], by simp⟩, by simp⟩

theorem transceive_extends (p : Config.Params) {s : State} (hf : s.hid.flen.toNat ≤ 64) : Extends s (transceive p s) := by
  obtain ⟨⟨hopr, -⟩, ⟨evs, htrace, -⟩, -⟩ := executor_cases p cmdTransceiveByte s hf
  exact ⟨⟨evs, htrace⟩, hopr⟩

/-- A frame the engine builds in `t`, sent. -/
theorem Extends.transceive {p : Config.Params} {s t : State} (h : Extends s t) (hf : t.hid.flen.toNat ≤ 64) :
    Extends s (transceive p t) :=
  h.trans (transceive_extends p hf)

theorem exec_extends {i : Instr} {s t : State} (h : exec i s = .next t) : Extends s t := by
  by_cases hop : i.format = .hop
  · obtain ⟨q, body, hexec, -, hperf⟩ := exists_performs_of_hop hop
    rw [hexec] at h
    cases hb : s.ctl.busy with
    | true => rw [hostOperation_of_busy hb] at h; cases h
    | false =>
      rw [hostOperation_of_ready hb] at h
      cases h
      exact (Extends.of_eq (by simp) (by simp)).trans (hperf (takeStart q s) rfl).extends
  · cases i with
    | busrd a => cases h; exact busRead_extends _ _ _
    | buswr a v => cases h; exact busWrite_extends _ _ _
    | cmdIdle | cmdCalccrc | cmdTransceive | cmdAuthent | cmdSoftreset | cmdOther c => cases h; exact busWrite_extends _ _ _
    | piccRequest m =>
      cases h
      exact .transceive ((busWrite_extends regBitframing params.bitframingShort s).trans (.of_eq (by simp) (by simp))) (by simp)
    | piccAnticollision =>
      cases h
      exact .transceive ((busWrite_extends regBitframing params.bitframingFull s).trans (.of_eq (by simp) (by simp))) (by simp)
    | piccSelect u0 u1 u2 u3 u4 c0 c1 => cases h; exact .transceive (.of_eq (by simp) (by simp)) (by simp)
    | piccHalt c0 c1 => cases h; exact .transceive (.of_eq (by simp) (by simp)) (by simp)
    | _ => exact absurd rfl hop

/-- Settles O17: a word of the request port is a host operation, whose ticks add one event each, or one transaction or one frame. -/
theorem stepExtendsTheTrace : Obligations.StepExtendsTheTrace := by
  unfold Obligations.StepExtendsTheTrace
  intro s t h
  obtain ⟨i, hexec⟩ | hstep := step_cases h
  · have hext := exec_extends hexec
    exact hext
  · obtain ⟨-, -, rfl⟩ | ⟨-, rfl⟩ := engineStep_cases hstep
    · exact Extends.of_eq rfl rfl
    · exact (tick_effect params s).extends

end Sys2Proof.Proofs

/-! PROOF. CALCCRC under the environment contract: what `Crc` does on ready answers, and what the FIFO of R80 holds when CalcCRC is
written. -/

namespace Sys2Proof.Proofs

open Sys2Proof.Machine Sys2Proof.Safety

/-! ### `Crc` on ready answers. -/

/-- Steps 1 and 2 of R161. -/
theorem crc_clear_flush_run {s : State} {f l : Byte} {rest : List Byte} (h : s.bus.answers = f :: l :: rest) :
    let t := setBits params regFifolevel params.fifoFlush (clearBits params params.regCrcirq params.crcDone s)
    t.bus.answers = rest ∧ t.hid.frame = s.hid.frame ∧ t.bus.trace = s.bus.trace ++
      [Event.rd 0x05 f, Event.wr 0x05 (f &&& 0xFB), Event.rd 0x0A l, Event.wr 0x0A (l ||| 0x80)] := by
  have hf : nextAnswer s.bus = f := nextAnswer_of_cons h
  have hl : ∀ a a' v, nextAnswer (afterWrite a v (afterRead a' s.bus)) = l :=
    fun _ _ _ => nextAnswer_of_cons (rest := rest) (by simp [h])
  refine ⟨by simp [h], by simp, ?_⟩
  simp only [setBits_bus, clearBits_bus, afterWrite_trace, afterRead_trace, hf, hl, List.append_assoc]
  rfl

/-- `Crc(k)` where the PCD answers with the bytes read back in the two clears, the polls, and the two result bytes (R161, R164). -/
theorem crc_run {k : Nat} {s : State} {f l : Byte} {quiet : List Byte} {d lo mid : Byte} {rest : List Byte} (hk : k ≤ 64)
    (h : s.bus.answers = f :: l :: (quiet ++ d :: lo :: mid :: rest)) (hlen : quiet.length ≤ 254)
    (hquiet : ∀ b ∈ quiet, anyBit b params.crcDone = false) (hd : anyBit d params.crcDone = true ∨ quiet.length = 254) :
    (crc params k s).hid.c0 = lo ∧ (crc params k s).hid.c1 = mid ∧ (crc params k s).bus.answers = rest ∧
    (crc params k s).bus.trace = s.bus.trace ++ crcOpening f l (firstBytes s.hid.frame k) ++
      (quiet ++ [d]).map (Event.rd 0x05) ++ [Event.rd 0x22 lo, Event.rd 0x21 mid] := by
  obtain ⟨hans, hframe, htrace⟩ := crc_clear_flush_run h
  simp only [crc]
  generalize setBits params regFifolevel params.fifoFlush (clearBits params params.regCrcirq params.crcDone s) = t at hans hframe htrace ⊢
  obtain ⟨-, -, -, -, -, -, wans, -, -, wtrace⟩ := fifoWrite_spec k t hk
  have poll := crcPoll_run params quiet 254
    (setCnt (BitVec.ofNat 16 crcPollMax) (issueCommand cmdCalccrcByte (fifoWrite k t))) d (lo :: mid :: rest)
    (by simp [crcPollMax]) (by simp [wans, hans]) hlen hquiet hd
  simp only [show 254 + 1 = crcPollMax from rfl] at poll
  rw [poll]
  refine ⟨by simp [nextAnswer], by simp [nextAnswer], by simp, ?_⟩
  simp [nextAnswer, wtrace, htrace, hframe, crcOpening, params, paramsOf, regCommand, cmdCalccrcByte, regIrqst1, regCrcresLo,
    regCrcresMid]

/-! ### The FIFO under the contract. -/

theorem fifoAfter_append (p : Config.Params) (q : List Byte) (a b : List Event) :
    fifoAfter p q (a ++ b) = fifoAfter p (fifoAfter p q a) b := List.foldl_append

/-- The FIFO writes of a byte sequence append it (R71). -/
theorem fifoAfter_fifoWrites (p : Config.Params) (bytes : List Byte) (q : List Byte) :
    fifoAfter p q (fifoWrites bytes) = q ++ bytes := by
  induction bytes generalizing q with
  | nil => simp [fifoAfter, fifoWrites]
  | cons b bytes ih =>
    have hcons : fifoAfter p q (fifoWrites (b :: bytes)) = fifoAfter p (fifoEvent p q (.wr 0x09 b)) (fifoWrites bytes) := rfl
    have hfirst : fifoEvent p q (.wr 0x09 b) = q ++ [b] := by simp [fifoEvent, byteOfAddr, regFifodata]
    rw [hcons, hfirst, ih, List.append_assoc, List.singleton_append]

/-- The flush of R161 step 2 empties the FIFO, whatever byte it was read over and whatever the FIFO held. -/
theorem fifoAfter_flush (o : Config.Open) (q : List Byte) (f g l : Byte) :
    fifoAfter (paramsOf o) q [Event.rd 0x05 f, Event.wr 0x05 g, Event.rd 0x0A l, Event.wr 0x0A (l ||| 0x80)] = [] := by
  have hflush : anyBit (l ||| 128#8) 128#8 = true := by revert l; decide
  simp [fifoAfter, fifoEvent, byteOfAddr, regFifodata, regFifolevel, paramsOf, hflush]

/-! ### CALCCRC. -/

theorem bodyCalccrc_of_le {p : Config.Params} {s : State} (h : s.opr.len.toNat ≤ 64) :
    bodyCalccrc p s = deliverCrc (crc p s.opr.len.toNat (loadFrame s)) :=
  if_neg (Nat.not_lt.mpr h)

theorem anyBit_eq_false_iff {b m : Byte} : anyBit b m = false ↔ b &&& m = 0 := by
  simp [anyBit]

/-- Settles O37: the events before CalcCRC leave exactly the operand bytes in the FIFO, and the two bytes the PCD then presents
are those that CALCCRC delivers. -/
theorem calccrcUnderTheContract : Obligations.CalccrcUnderTheContract := by
  unfold Obligations.CalccrcUnderTheContract
  intro o s q f l quiet d c rest hb hlen hpolls hquiet hd hans
  generalize hs : loadFrame (takeStart .calccrcLoad s) = s'
  have hans' : s'.bus.answers = f :: l :: (quiet ++ d :: c.1 :: c.2 :: rest) := by rw [← hs]; simp [hans]
  have hframe : firstBytes s'.hid.frame s.opr.len.toNat = firstBytes s.opr.buf s.opr.len.toNat := by
    rw [← hs]; exact loadFrame_frame (takeStart .calccrcLoad s) hlen
  obtain ⟨hc0, hc1, -, htrace⟩ := crc_run hlen hans' hpolls (fun b hb => anyBit_eq_false_iff.mpr (hquiet b hb))
    (.inl (Bool.of_not_eq_false fun h => hd (anyBit_eq_false_iff.mp h)))
  have hexec : exec .calccrc s = .next (finish (deliverCrc (crc params s.opr.len.toNat s'))) := by
    have hbody : bodyCalccrc params (takeStart .calccrcLoad s) = deliverCrc (crc params s.opr.len.toNat s') :=
      hs ▸ bodyCalccrc_of_le (s := takeStart .calccrcLoad s) hlen
    rw [← hbody]
    exact hostOperation_of_ready hb
  refine ⟨_, [Event.rd 0x05 f, Event.wr 0x05 (f &&& 0xFB), Event.rd 0x0A l, Event.wr 0x0A (l ||| 0x80)] ++
      fifoWrites (firstBytes s.opr.buf s.opr.len.toNat),
    (quiet ++ [d]).map (Event.rd 0x05) ++ [Event.rd 0x22 c.1, Event.rd 0x21 c.2], hexec, ?_, fun hcrc => ?_⟩
  · rw [hframe] at htrace
    have hbus : s'.bus = s.bus := by rw [← hs]; simp
    simp [htrace, hbus, crcOpening]
  · rw [crcPresented, fifoAfter_append, fifoAfter_flush, fifoAfter_fifoWrites, List.nil_append] at hcrc
    simp only [finish_res, deliverCrc_res, hc0, hc1]
    exact hcrc

end Sys2Proof.Proofs

/-! PROOF. The tier 1 facts of the state: reset values, host actions, the launch and what a step runs; and the invariant of every
step. -/

namespace Sys2Proof.Proofs

open Sys2Proof.Machine Sys2Proof.Safety

/-! ### The start of an operation. -/

/-- The first position of an operation is step 1 of the operation that the code names (R28). -/
theorem firstPosition_is_first_step (op : BitVec 4) :
    (firstPosition op).operation = some (decodeOp op) ∧ (firstPosition op).stepNumber = 1 := by
  revert op; decide

theorem firstPosition_ne_idle (op : BitVec 4) : firstPosition op ≠ .idle := by
  revert op; decide

theorem launch_eq (s : State) :
    launch s = { s with ctl := { start := false, busy := true, done := false, seq := firstPosition s.opr.op } } := rfl

/-- Settles O18. -/
theorem launchTakesStart : Obligations.LaunchTakesStart := by
  unfold Obligations.LaunchTakesStart
  intro s
  exact ⟨launch_eq s, firstPosition_is_first_step s.opr.op⟩

theorem step_of_start {s : State} (hr : s.request = none) (hs : s.ctl.start = true) (hb : s.ctl.busy = false) :
    step s = .next (launch s) :=
  (step_of_no_request hr).trans (engineStep_of_start hs hb)

theorem step_of_request {s : State} {r : Request} {i : Instr} (hr : s.request = some r)
    (hd : decode r.format r.bytes = .ok i) : step s = exec i { s with request := none } := by
  simp [step, fetch, hr, hd]

/-- Settles O8. -/
theorem stepRunsTheInstruction : Obligations.StepRunsTheInstruction := by
  unfold Obligations.StepRunsTheInstruction
  refine ⟨fun s r i hr hd => step_of_request hr hd, fun s hr hs hb => ?_⟩
  obtain ⟨hop, hone⟩ := firstPosition_is_first_step s.opr.op
  exact ⟨firstPosition s.opr.op, hop, hone, step_of_start hr hs hb⟩

/-! ### The host's side. -/

theorem hostWrite_of_ready {s : State} (w : HostWrite) (hb : s.ctl.busy = false) :
    hostWrite w s = .next { s with opr := writeOperand w s.opr } := by
  simp [hostWrite, hb]

/-- The step after a submitted line takes its `START` (R28, R121). -/
theorem step_submit {s : State} (l : Line) (hr : s.request = none) (hb : s.ctl.busy = false) :
    step (l.submit s) = .next (launch (l.submit s)) :=
  step_of_start hr rfl hb

/-- Settles O12: a ready write is `writeOperand`, and a submitted line is a raised `START`. -/
theorem hostActions : Obligations.HostActions := by
  unfold Obligations.HostActions
  intro s hb
  have hwrite := fun w => hostWrite_of_ready w hb
  exact ⟨fun _ => hwrite _, fun _ => hwrite _, fun _ => hwrite _, fun _ => hwrite _, fun _ => hwrite _,
    fun k v => ⟨_, hwrite (.buf k v), rfl, rfl⟩, by simp [hostStart, hb],
    fun l hr => ⟨step_submit l hr hb, (firstPosition_is_first_step l.op).1⟩⟩

/-- A line runs the operation its code names, over the operand registers it writes. -/
theorem lineRuns_of_operands {l : Line} {o : Operands} {s : State} (ho : l.operands s.opr = o) (hb : s.ctl.busy = false) :
    LineRuns l (decodeOp l.op) l.op o s := by
  have hsubmit : l.submit s = { s with opr := { o with op := l.op }, ctl := { s.ctl with start := true } } := by
    rw [← ho]; rfl
  obtain ⟨hop, hone⟩ := firstPosition_is_first_step l.op
  refine ⟨hsubmit, firstPosition l.op, hop, hone, fun hr => ?_⟩
  rw [step_submit l hr hb, hsubmit]
  rfl

/-- The bytes of a list written from the front of a buffer, the others kept: that says the whole buffer. -/
theorem storeBytes_eq {n : Nat} {v w : Vector Byte n} {bs : List Byte} (h : ∀ k : Fin n, w[k] = bs.getD k v[k]) :
    storeBytes v bs = w := by
  apply Vector.ext
  intro j hj
  rw [storeBytes, Vector.getElem_ofFn, byteAt_eq_getElem v j hj]
  exact (h ⟨j, hj⟩).symm

/-- Settles O13: the operand registers of each form of line, and the `START` that the next step takes. -/
theorem linesRunTheirOperation : Obligations.LinesRunTheirOperation := by
  unfold Obligations.LinesRunTheirOperation
  intro s hb
  have runs : ∀ (l : Line) {o : Operands}, l.operands s.opr = o → LineRuns l (decodeOp l.op) l.op o s :=
    fun _ _ ho => lineRuns_of_operands ho hb
  refine ⟨fun a => runs (.readreg a) rfl, fun a v => runs (.writereg a v) rfl, fun a m => runs (.setbits a m) rfl,
    fun a m => runs (.clrbits a m) rfl, fun bs buf len _ hlen hbuf => ?_, fun m => runs (.ispresent m) rfl,
    fun n => runs (.waitpresent n) rfl, fun n => runs (.waitremoved n) rfl, runs .readuid rfl,
    fun u0 u1 u2 u3 bcc buf hbuf => runs (.select u0 u1 u2 u3 bcc) (by rw [← storeBytes_eq hbuf]; rfl),
    fun sak => runs (.classify sak) rfl, runs .halt rfl, fun h => runs (.init h) rfl⟩
  have hstore : storeBytes s.opr.buf bs = buf := storeBytes_eq hbuf
  have hcount : BitVec.ofNat 7 bs.length = len := by rw [← hlen]; simp
  exact ⟨runs (.calccrc bs) (by rw [← hstore, ← hcount]; rfl), fun c => runs (.tocard c bs) (by rw [← hstore, ← hcount]; rfl)⟩

/-! ### The reset. -/

/-- Settles O14: both resets leave the same three groups of registers. -/
theorem resetValues : Obligations.ResetValues := by
  unfold Obligations.ResetValues
  intro s t ht
  have hregs : t.ctl = Control.reset ∧ t.opr = Operands.reset ∧ t.res = Results.reset ∧ t.bus.cs = false := by
    obtain rfl | rfl := ht
    · exact ⟨rfl, rfl, rfl, rfl⟩
    · exact ⟨rfl, rfl, rfl, rfl⟩
  obtain ⟨hctl, hopr, hres, hcs⟩ := hregs
  have hkept : t = hostReset s → t.bus.answers = s.bus.answers ∧ t.bus.reads = s.bus.reads ∧ t.bus.trace = s.bus.trace := by
    rintro rfl
    exact ⟨rfl, rfl, rfl⟩
  rw [hctl, hopr, hres, hcs]
  simp only [Control.reset, Operands.reset, Results.reset, true_and]
  exact ⟨fun k => Vector.getElem_replicate k.isLt, fun k => Vector.getElem_replicate k.isLt, hkept⟩

/-- Settles O15. -/
theorem invariantAtReset : Obligations.InvariantAtReset := by
  unfold Obligations.InvariantAtReset
  decide

/-! ### PCD commands and the CRC bytes. -/

/-- A command byte is written to `COMMAND`, and nothing else is done (R39). -/
theorem issueCommand_eq (c : Byte) (s : State) : issueCommand c s = { s with bus := afterWrite 0x01 c s.bus } :=
  busWrite_eq regCommand c s

/-- Settles O26: every row is one write of `COMMAND`. -/
theorem pcdCommandsAreWritten : Obligations.PcdCommandsAreWritten := by
  unfold Obligations.PcdCommandsAreWritten
  intro c s
  have written := fun c => congrArg (Host.Outcome.next (φ := Fault) (ρ := Refusal)) (issueCommand_eq c s)
  exact ⟨written _, written _, written _, written _, written _, written c⟩

/-- The two result reads of step 6 of R161. -/
theorem crc_result_reads (s : State) : (readC1 params (readC0 params s)).bus.trace = s.bus.trace ++
    [Event.rd 0x22 (readC1 params (readC0 params s)).hid.c0, Event.rd 0x21 (readC1 params (readC0 params s)).hid.c1] := by
  simp [params, paramsOf, regCrcresLo, regCrcresMid]

/-- The two bytes behind the first `k` of a frame are the CRC bytes appended to it, `C0` first. -/
theorem byteAt_appendCrc {k : Nat} (h : k + 1 < 64) (c0 c1 : Byte) (s : State) :
    byteAt (appendCrc k c0 c1 s).hid.frame k = c0 ∧ byteAt (appendCrc k c0 c1 s).hid.frame (k + 1) = c1 := by
  rw [appendCrc_hid, byteAt_eq_getElem _ k (by omega), byteAt_eq_getElem _ (k + 1) h]
  exact ⟨by simp, by simp⟩

/-- Settles O35: `Crc` ends with the two reads, and the bytes are appended at 7 and at 2. -/
theorem crcResultOrder : Obligations.CrcResultOrder := by
  unfold Obligations.CrcResultOrder
  refine ⟨fun k s => ⟨_, crc_result_reads _⟩, fun c0 c1 s => ?_⟩
  obtain ⟨h7, h8⟩ := byteAt_appendCrc (k := 7) (by omega) c0 c1 s
  obtain ⟨h2, h3⟩ := byteAt_appendCrc (k := 2) (by omega) c0 c1 s
  exact ⟨h7, h8, h2, h3⟩

end Sys2Proof.Proofs

/-! PROOF. The invariant: a tick updates the data of a running operation and moves `SEQ` on, or ends the operation; a word of the
request port is such a run, one transaction or one frame. -/

namespace Sys2Proof.Proofs

open Sys2Proof.Machine Sys2Proof.Safety

/-! ### One tick. -/

/-- An update of the data in the course of an operation: the handshake stays, and the counts are in range and chip-select released
after it. -/
def Updates (s t : State) : Prop := t.ctl = s.ctl ∧ CountsOk t ∧ t.bus.cs = false

theorem updates_iff {s t : State} : Updates s t ↔ t.ctl = s.ctl ∧ (t.hid.flen.toNat ≤ 64 ∧ t.hid.i.toNat ≤ 64 ∧
    t.hid.xlen.toNat ≤ 16 ∧ t.res.rlen.toNat ≤ 16) ∧ t.bus.cs = false := Iff.rfl

/-- What a tick may do from a state with an operation in progress: update the data, and move `SEQ` on or end the operation. -/
def Moves (s t : State) : Prop := ∃ u, Updates s u ∧ (t = finish u ∨ ∃ q, q ≠ .idle ∧ t = goto q u)

theorem moves_goto {s u : State} {q : Seq} (hu : Updates s u) (hq : q ≠ .idle) : Moves s (goto q u) :=
  ⟨u, hu, .inr ⟨q, hq, rfl⟩⟩

theorem moves_finish {s u : State} (hu : Updates s u) : Moves s (finish u) := ⟨u, hu, .inl rfl⟩

theorem moves_ite {s t t' : State} {c : Prop} [Decidable c] (h : c → Moves s t) (h' : ¬c → Moves s t') :
    Moves s (if c then t else t') := by
  split
  · exact h ‹c›
  · exact h' ‹¬c›

theorem Moves.inv {s t : State} (h : Moves s t) (hs : HandshakeOk s.ctl) (hq : s.ctl.seq ≠ .idle) : Inv t := by
  obtain ⟨u, ⟨hctl, hcounts, hcs⟩, rfl | ⟨q, hq', rfl⟩⟩ := h
  · exact ⟨by simp [HandshakeOk], by simpa [CountsOk] using hcounts, by simpa using hcs⟩
  · refine ⟨?_, by simpa [CountsOk] using hcounts, by simpa using hcs⟩
    have hbusy : s.ctl.busy = true := hs.1.mpr hq
    have hdone : s.ctl.done = false := Bool.eq_false_iff.mpr fun hd => by simp [hs.2 hd] at hbusy
    simp [HandshakeOk, hctl, hbusy, hdone, hq']

theorem afterCrc_ne_idle (u : CrcUser) : afterCrc u ≠ .idle := by cases u <;> simp [afterCrc]

theorem afterExec_ne_idle (u : ExecUser) : afterExec u ≠ .idle := by cases u <;> simp [afterExec]

theorem crcLength_le {s : State} (u : CrcUser) (h : s.hid.flen.toNat ≤ 64) : crcLength u s ≤ 64 := by
  cases u <;> simp [crcLength, h]

section Tick

variable {p : Config.Params} {s : State} (hc : CountsOk s) (hcs : s.bus.cs = false)
include hc hcs

theorem tickCrc_moves (u : CrcUser) (c : CrcPos) : Moves s (tickCrc p u c s) := by
  obtain ⟨hflen, hi, hxlen, hrlen⟩ := hc
  cases c with
  | clear r | flush r => cases r <;> exact moves_goto (by simp [updates_iff, *]) (by simp)
  | fifo =>
    refine moves_ite (fun hlt => moves_goto ?_ (by simp)) fun _ => moves_goto (by simp [updates_iff, *]) (by simp)
    have hle := crcLength_le u hflen
    simp [updates_iff, hflen, hxlen, hrlen]
    omega
  | pollTest => exact moves_goto (by simp [updates_iff, *]) (by split <;> simp)
  | resultMid => exact moves_goto (by simp [updates_iff, *]) (afterCrc_ne_idle u)
  | _ => exact moves_goto (by simp [updates_iff, *]) (by simp)

theorem tickExec_moves (u : ExecUser) (x : ExecPos) : Moves s (tickExec p u x s) := by
  obtain ⟨hflen, hi, hxlen, hrlen⟩ := hc
  have hafter := afterExec_ne_idle u
  cases x with
  | clear r | flush r | send r => cases r <;> exact moves_goto (by simp [updates_iff, *]) (by simp)
  | fifo =>
    refine moves_ite (fun hlt => moves_goto ?_ (by simp)) fun _ => moves_goto (by simp [updates_iff, *]) (by simp)
    simp [updates_iff, hflen, hxlen, hrlen]
    omega
  | command | pollTest => exact moves_goto (by simp [updates_iff, *]) (by split <;> simp)
  | stop r =>
    cases r with
    | read => exact moves_goto (by simp [updates_iff, *]) (by simp)
    | write => exact moves_goto (by simp [updates_iff, *]) (by split <;> simp [hafter])
  | judge => exact moves_goto (by simp [updates_iff, *]) (by split_ifs <;> simp [hafter])
  | count => exact moves_goto (by simp [updates_iff, drainCount_le, *]) (by simp)
  | drain =>
    refine moves_ite (fun hlt => moves_goto ?_ (by simp)) fun _ => moves_goto (by simp [updates_iff, *]) hafter
    simp [updates_iff, hflen, hxlen, hrlen]
    omega
  | _ => exact moves_goto (by simp [updates_iff, *]) (by simp)

theorem tickInit_moves (k : Nat) (r : RmwPos) : Moves s (tickInit p k r s) := by
  obtain ⟨hflen, hi, hxlen, hrlen⟩ := hc
  unfold tickInit
  split <;> exact moves_goto (by simp [updates_iff, *]) (by simp)

/-- A tick of an operation in progress. -/
theorem tick_moves (hq : s.ctl.seq ≠ .idle) : Moves s (tick p s) := by
  have hc' := hc
  obtain ⟨hflen, hi, hxlen, hrlen⟩ := hc'
  cases h : s.ctl.seq with
  | idle => exact absurd h hq
  | inCrc u c => simpa only [tick, h] using tickCrc_moves hc hcs u c
  | inExec u x => simpa only [tick, h] using tickExec_moves hc hcs u x
  | initItem k r => simpa only [tick, h] using tickInit_moves hc hcs k r
  | setbits r | clrbits r =>
    cases r with
    | read => simp only [tick, h]; exact moves_goto (by simp [updates_iff, *]) (by simp)
    | write => simp only [tick, h]; exact moves_finish (by simp [updates_iff, *])
  | waitpresentClear r => cases r <;> (simp only [tick, h]; exact moves_goto (by simp [updates_iff, *]) (by simp))
  | calccrcLoad | tocardLoad =>
    simp only [tick, h]
    refine moves_ite (fun _ => moves_finish (by simp [updates_iff, *])) fun hle => moves_goto ?_ (by simp)
    have hlen : s.opr.len.toNat ≤ 64 := Nat.le_of_not_lt hle
    simp [updates_iff, *]
  | waitpresentTest | waitremovedTest | waitremovedMatch =>
    simp only [tick, h]
    exact moves_ite (fun _ => moves_finish (by simp [updates_iff, *])) fun _ => moves_goto (by simp [updates_iff, *]) (by simp)
  | waitpresentMatch => simp only [tick, h]; exact moves_goto (by simp [updates_iff, *]) (by split <;> simp)
  | readreg | writereg | classify =>
    simp only [tick, h]; exact moves_finish (by simp [updates_iff, bodyReadreg, bodyWritereg, bodyClassify, *])
  | calccrcResults | tocardResults | ispresentResults | waitpresentFound | readuidResults | selectResults | haltResults
  | initResults | reservedE | reservedF => simp only [tick, h]; exact moves_finish (by simp [updates_iff, *])
  | _ => simp only [tick, h]; exact moves_goto (by simp [updates_iff, *]) (by simp)

end Tick

theorem tick_inv {p : Config.Params} {s : State} (h : Inv s) : Inv (tick p s) := by
  by_cases hq : s.ctl.seq = .idle
  · rwa [tick_of_idle hq]
  · obtain ⟨hs, hc, hcs⟩ := h
    exact (tick_moves hc hcs hq).inv hs hq

theorem Reaches.inv {p : Config.Params} {s t : State} (h : Reaches p s t) (hs : Inv s) : Inv t := by
  obtain ⟨n, rfl, -⟩ := h
  induction n generalizing s with
  | zero => exact hs
  | succ n ih => exact ih (tick_inv hs)

/-! ### One step. -/

theorem takeStart_inv {q : Seq} {s : State} (h : Inv s) (hq : q ≠ .idle) : Inv (takeStart q s) := by
  obtain ⟨-, hc, hcs⟩ := h
  exact ⟨by simpa [HandshakeOk] using hq, by simpa [CountsOk] using hc, by simpa using hcs⟩

theorem exists_decodeOp_of_hop {i : Instr} (h : i.format = .hop) : ∃ op, decodeOp op = i := by
  cases i with
  | readreg => exact ⟨0x0, rfl⟩
  | writereg => exact ⟨0x1, rfl⟩
  | setbits => exact ⟨0x2, rfl⟩
  | clrbits => exact ⟨0x3, rfl⟩
  | calccrc => exact ⟨0x4, rfl⟩
  | tocard => exact ⟨0x5, rfl⟩
  | ispresent => exact ⟨0x6, rfl⟩
  | waitpresent => exact ⟨0x7, rfl⟩
  | waitremoved => exact ⟨0x8, rfl⟩
  | readuid => exact ⟨0x9, rfl⟩
  | select => exact ⟨0xA, rfl⟩
  | classify => exact ⟨0xB, rfl⟩
  | halt => exact ⟨0xC, rfl⟩
  | init => exact ⟨0xD, rfl⟩
  | reservedE => exact ⟨0xE, rfl⟩
  | reservedF => exact ⟨0xF, rfl⟩
  | _ => cases h

/-- Data that has changed in no handshake bit, with its counts in range and chip-select released. -/
theorem Updates.inv {s t : State} (h : Updates s t) (hs : Inv s) : Inv t := by
  obtain ⟨hctl, hcounts, hcs⟩ := h
  obtain ⟨hhs, -⟩ := hs
  exact ⟨hctl ▸ hhs, hcounts, hcs⟩

theorem transceive_inv {p : Config.Params} {s : State} (h : Inv s) : Inv (transceive p s) := by
  obtain ⟨hhs, ⟨hflen, -, -, hrlen⟩, -⟩ := h
  obtain ⟨⟨-, hres, hctl, -⟩, -, hcs, -, hflen', -, -, hi, hxlen⟩ := executor_cases p cmdTransceiveByte s hflen
  exact ⟨hctl ▸ hhs, ⟨hflen' ▸ hflen, hi, hxlen, hres ▸ hrlen⟩, hcs⟩

theorem exec_inv {i : Instr} {s t : State} (hs : Inv s) (h : exec i s = .next t) : Inv t := by
  have hs' := hs
  obtain ⟨-, ⟨hflen, hi, hxlen, hrlen⟩, hcs⟩ := hs'
  by_cases hop : i.format = .hop
  · obtain ⟨op, rfl⟩ := exists_decodeOp_of_hop hop
    cases hb : s.ctl.busy with
    | true =>
      obtain ⟨q, body, hexec, -⟩ := exists_performs_of_hop hop
      rw [hexec, hostOperation_of_busy hb] at h
      cases h
    | false =>
      obtain ⟨q, t', hfirst, hexec, hreach⟩ := exec_reached_of_hop hop hb
      rw [hexec] at h
      cases h
      exact hreach.inv (takeStart_inv hs (hfirst op rfl ▸ firstPosition_ne_idle op))
  · cases i with
    | busrd _ | buswr _ _ =>
      cases h; exact Updates.inv (s := s) (by simp [updates_iff, *]) hs
    | cmdIdle | cmdCalccrc | cmdTransceive | cmdAuthent | cmdSoftreset | cmdOther _ =>
      cases h; exact Updates.inv (s := s) (by simp [updates_iff, *]) hs
    | piccRequest _ | piccAnticollision | piccSelect _ _ _ _ _ _ _ | piccHalt _ _ =>
      cases h; exact transceive_inv (Updates.inv (s := s) (by simp [updates_iff, *]) hs)
    | _ => exact absurd rfl hop

/-- Settles O16: a word of the request port, the launch and the tick each keep the invariant. -/
theorem stepKeepsInvariant : Obligations.StepKeepsInvariant := by
  unfold Obligations.StepKeepsInvariant
  intro s t hs h
  obtain ⟨i, hexec⟩ | hstep := step_cases h
  · exact exec_inv (s := { s with request := none }) hs hexec
  · obtain ⟨-, -, rfl⟩ | ⟨-, rfl⟩ := engineStep_cases hstep
    · exact takeStart_inv hs (firstPosition_ne_idle s.opr.op)
    · exact tick_inv hs

end Sys2Proof.Proofs

/-! PROOF. The matrix of R24: which result registers each host operation writes. -/

namespace Sys2Proof.Proofs

open Sys2Proof.Machine Sys2Proof.Safety

/-! ### What stays over a run. -/

theorem Reaches.keeps {p : Config.Params} {s t : State} (h : Reaches p s t) :
    t.request = s.request ∧ t.ctl.start = s.ctl.start := by
  obtain ⟨n, rfl, -⟩ := h
  induction n generalizing s with
  | zero => exact ⟨rfl, rfl⟩
  | succ n ih =>
    obtain ⟨hreq, hstart⟩ := ih (s := tick p s)
    have heff := tick_effect p s
    exact ⟨hreq.trans heff.request, hstart.trans heff.start⟩

theorem crc_keeps_res (p : Config.Params) {k : Nat} (s : State) (hk : k ≤ 64) : (crc p k s).res = s.res := by
  obtain ⟨⟨-, hres, -⟩, -⟩ := crc_cases p k s hk
  exact hres

theorem executor_keeps_res (p : Config.Params) (cmd : Byte) {s : State} (hf : s.hid.flen.toNat ≤ 64) :
    (executor p cmd s).res = s.res := by
  obtain ⟨⟨-, hres, -⟩, -⟩ := executor_cases p cmd s hf
  exact hres

theorem transceive_keeps_res (p : Config.Params) {s : State} (hf : s.hid.flen.toNat ≤ 64) : (transceive p s).res = s.res :=
  executor_keeps_res p cmdTransceiveByte hf

/-! ### The rows. -/

theorem matrixRow_of_writesOnly {i : Instr} {s t : State} (hr : refusedOperands s.opr i = false)
    (h : WritesOnly i s.res t.res) : MatrixRow i s t := by
  simpa [MatrixRow, hr] using h

theorem matrixRow_of_refused {i : Instr} {s t : State} (hr : refusedOperands s.opr i = true)
    (h : t.res = { s.res with status := .error }) : MatrixRow i s t := by
  simpa [MatrixRow, hr] using h

theorem calccrc_row (s : State) : MatrixRow .calccrc s (bodyCalccrc params s) := by
  by_cases hlen : 64 < s.opr.len.toNat
  · have hbody : bodyCalccrc params s = refuse s := if_pos hlen
    exact matrixRow_of_refused (by simp [refusedOperands, hlen]) (by simp [hbody])
  · have hres := crc_keeps_res params (loadFrame s) (Nat.le_of_not_lt hlen)
    refine matrixRow_of_writesOnly (by simp [refusedOperands, hlen]) ?_
    simp [bodyCalccrc_of_le (Nat.le_of_not_lt hlen), WritesOnly, hres]

theorem bodyTocard_of_le {p : Config.Params} {s : State} (h : s.opr.len.toNat ≤ 64) : bodyTocard p s =
    deliver (executor p s.opr.d (loadFrame s)).hid.xst (executor p s.opr.d (loadFrame s)) :=
  if_neg (Nat.not_lt.mpr h)

theorem tocard_row (s : State) : MatrixRow .tocard s (bodyTocard params s) := by
  by_cases hlen : 64 < s.opr.len.toNat
  · have hbody : bodyTocard params s = refuse s := if_pos hlen
    exact matrixRow_of_refused (by simp [refusedOperands, hlen]) (by simp [hbody])
  · have hres := executor_keeps_res params s.opr.d (s := loadFrame s) (by simpa using hlen)
    refine matrixRow_of_writesOnly (by simp [refusedOperands, hlen]) ?_
    simp [bodyTocard_of_le (Nat.le_of_not_lt hlen), WritesOnly, hres]

theorem ispresent_row (s : State) : MatrixRow .ispresent s (bodyIspresent params s) := by
  have hres := transceive_keeps_res params (s := frameRequest s.opr.d (busWrite regBitframing params.bitframingShort s)) (by simp)
  exact matrixRow_of_writesOnly rfl (by simp [bodyIspresent, sendRequest, WritesOnly, hres])

theorem readuid_row (s : State) : MatrixRow .readuid s (bodyReaduid params s) := by
  have hres := transceive_keeps_res params (s := frameAnticollision (busWrite regBitframing params.bitframingFull s)) (by simp)
  exact matrixRow_of_writesOnly rfl (by simp [bodyReaduid, sendAnticollision, WritesOnly, hres])

theorem select_row (s : State) : MatrixRow .select s (bodySelect params s) := by
  have hcrc := crc_keeps_res params (k := 7) (frameSelectHead (uidOperand s.opr) s) (by omega)
  have hres := fun c0 c1 t => transceive_keeps_res params (s := appendCrc 7 c0 c1 t) (by simp)
  exact matrixRow_of_writesOnly rfl (by simp [bodySelect, sendSelect, WritesOnly, hres, hcrc])

theorem halt_row (s : State) : MatrixRow .halt s (bodyHalt params s) := by
  have hcrc := crc_keeps_res params (k := 2) (frameHaltHead s) (by omega)
  have hres := fun c0 c1 t => transceive_keeps_res params (s := appendCrc 2 c0 c1 t) (by simp)
  exact matrixRow_of_writesOnly rfl (by simp [bodyHalt, sendHalt, WritesOnly, hres, hcrc])

theorem waitpresent_row (s : State) : MatrixRow .waitpresent s (bodyWaitpresent params s) := by
  obtain ⟨-, -, -, ⟨b, hres⟩, -⟩ := waitPresentLoop_cases params (s.opr.t.toNat + 1) (setCnt s.opr.t s) (by simp)
  exact matrixRow_of_writesOnly rfl (by simp [bodyWaitpresent, WritesOnly, hres])

theorem waitremoved_row (s : State) : MatrixRow .waitremoved s (bodyWaitremoved params s) := by
  obtain ⟨-, -, -, ⟨b, hres⟩, -⟩ := waitRemovedLoop_cases params (s.opr.t.toNat + 1)
    (setCnt s.opr.t (busWrite regBitframing params.bitframingFull s)) (by simp)
  exact matrixRow_of_writesOnly rfl (by simp [bodyWaitremoved, WritesOnly, hres])

theorem init_row (s : State) : MatrixRow .init s (bodyInit params s) := by
  obtain ⟨⟨-, hres, -⟩, -⟩ := initItems_cases params (params.initSequence s.opr.d) (issueCommand cmdSoftresetByte s)
  exact matrixRow_of_writesOnly rfl (by simp [bodyInit, WritesOnly, hres])

/-- The row of an operation depends on its step list, not on its start and its end. -/
theorem hostOperation_row {i : Instr} {q : Seq} {body : State → State} {s t : State} (hb : s.ctl.busy = false)
    (hbody : ∀ s, MatrixRow i s (body s)) (h : hostOperation q body s = .next t) : MatrixRow i s t := by
  rw [hostOperation_of_ready hb] at h
  cases h
  exact hbody (takeStart q s)

theorem exec_row {i : Instr} {s t : State} (hi : i.format = .hop) (hb : s.ctl.busy = false) (h : exec i s = .next t) :
    MatrixRow i s t := by
  cases i with
  | readreg => exact hostOperation_row hb (fun s => matrixRow_of_writesOnly rfl (by simp [bodyReadreg, WritesOnly])) h
  | writereg => exact hostOperation_row hb (fun s => matrixRow_of_writesOnly rfl (by simp [bodyWritereg, WritesOnly])) h
  | setbits => exact hostOperation_row hb (fun s => matrixRow_of_writesOnly rfl (by simp [bodySetbits, WritesOnly])) h
  | clrbits => exact hostOperation_row hb (fun s => matrixRow_of_writesOnly rfl (by simp [bodyClrbits, WritesOnly])) h
  | calccrc => exact hostOperation_row hb calccrc_row h
  | tocard => exact hostOperation_row hb tocard_row h
  | ispresent => exact hostOperation_row hb ispresent_row h
  | waitpresent => exact hostOperation_row hb waitpresent_row h
  | waitremoved => exact hostOperation_row hb waitremoved_row h
  | readuid => exact hostOperation_row hb readuid_row h
  | select => exact hostOperation_row hb select_row h
  | classify => exact hostOperation_row hb (fun s => matrixRow_of_writesOnly rfl (by simp [bodyClassify, WritesOnly])) h
  | halt => exact hostOperation_row hb halt_row h
  | init => exact hostOperation_row hb init_row h
  | reservedE | reservedF => exact hostOperation_row hb (fun s => matrixRow_of_writesOnly rfl (by simp [WritesOnly])) h
  | _ => cases hi

/-- A host operation ends with the handshake of R28, and leaves the request port alone. -/
theorem exec_ends {i : Instr} {s t : State} (hi : i.format = .hop) (hb : s.ctl.busy = false) (h : exec i s = .next t) :
    t.ctl = endedControl ∧ t.request = s.request := by
  obtain ⟨q, body, hexec, -, hperf⟩ := exists_performs_of_hop hi
  rw [hexec, hostOperation_of_ready hb] at h
  cases h
  obtain ⟨hreq, hstart⟩ := (hperf (takeStart q s) rfl).keeps
  simp only [finish_ctl, takeStart_ctl] at hstart
  exact ⟨by simp [endedControl, hstart], by simpa using hreq⟩

/-- Settles O22: completion and the handshake hold for every run of the sequencer, the row is that of the step list. -/
theorem hostOperationsWriteMatrix : Obligations.HostOperationsWriteMatrix := by
  unfold Obligations.HostOperationsWriteMatrix
  intro i s hi hb
  obtain ⟨q, t, -, h, -⟩ := exec_reached_of_hop hi hb
  obtain ⟨hctl, hreq⟩ := exec_ends hi hb h
  obtain ⟨htrace, hopr⟩ := exec_extends h
  exact ⟨t, h, exec_row hi hb h, hopr, hctl, hreq, htrace⟩

end Sys2Proof.Proofs

/-! PROOF. Two runs that differ in the hidden registers alone: every hidden register an instruction reads it has written before, so
at each point of its step list the runs agree on the hidden registers still to be read. -/

namespace Sys2Proof.Proofs

open Sys2Proof.Machine Sys2Proof.Safety

/-! ### Agreement. -/

/-- Two states that agree on all but the hidden registers, and on what `K` reads of those. -/
structure AgreeOn {α : Type} (K : Hidden → α) (s t : State) : Prop where
  opr : t.opr = s.opr
  res : t.res = s.res
  ctl : t.ctl = s.ctl
  bus : t.bus = s.bus
  request : t.request = s.request
  hid : K t.hid = K s.hid

theorem agreeOn_iff {α : Type} {K : Hidden → α} {s t : State} : AgreeOn K s t ↔ t.opr = s.opr ∧ t.res = s.res ∧
    t.ctl = s.ctl ∧ t.bus = s.bus ∧ t.request = s.request ∧ K t.hid = K s.hid :=
  ⟨fun h => ⟨h.opr, h.res, h.ctl, h.bus, h.request, h.hid⟩, fun ⟨ho, hr, hc, hb, hq, hh⟩ => ⟨ho, hr, hc, hb, hq, hh⟩⟩

/-- No hidden register is read any more. -/
def noRegs (_ : Hidden) : Unit := ()

/-- The first `k` bytes of the frame: what `Crc(k)` reads of the registers written before it (R161). -/
def frameBytes (k : Nat) (h : Hidden) : List Byte := firstBytes h.frame k

/-- The frame and its length: what `Exec` reads of the registers written before it (R181). -/
def frameRegs (h : Hidden) : BitVec 7 × List Byte := (h.flen, frameBytes h.flen.toNat h)

/-- What step 1 of `Exec` has written (R181, R182). -/
def commandRegs (h : Hidden) : Byte × Byte × Byte × Status × BitVec 16 × BitVec 5 × Vector Byte 16 :=
  (h.cmdr, h.irqen, h.waitirq, h.xst, h.xbits, h.xlen, h.xbuf)

/-- The outcome of `Exec`, as the operations deliver it. -/
def outcomeRegs (h : Hidden) : Status × BitVec 16 × BitVec 5 × Vector Byte 16 := (h.xst, h.xbits, h.xlen, h.xbuf)

/-- The two bytes that `Crc` leaves. -/
def crcRegs (h : Hidden) : Byte × Byte := (h.c0, h.c1)

/-- Agreement holds for any other registers that are seen to agree. -/
theorem AgreeOn.on {α β : Type} {K : Hidden → α} {L : Hidden → β} {s t : State} (h : AgreeOn K s t)
    (hL : L t.hid = L s.hid) : AgreeOn L s t :=
  ⟨h.opr, h.res, h.ctl, h.bus, h.request, hL⟩

theorem AgreeOn.forget {α : Type} {K : Hidden → α} {s t : State} (h : AgreeOn K s t) : AgreeOn noRegs s t := h.on rfl

theorem AgreeOn.next {α : Type} {K : Hidden → α} {s t : State} (h : AgreeOn K s t) : AgreeButHidden (.next s) (.next t) :=
  state_eq h.opr.symm h.res.symm rfl h.ctl.symm h.bus.symm h.request.symm

/-! ### The FIFO writes. -/

theorem bus_eq {b b' : Bus} (hcs : b.cs = b'.cs) (hrx : b.rx = b'.rx) (hans : b.answers = b'.answers)
    (hreads : b.reads = b'.reads) (htrace : b.trace = b'.trace) : b = b' := by
  cases b; cases b'
  simp only at hcs hrx hans hreads htrace
  rw [hcs, hrx, hans, hreads, htrace]

/-- A FIFO-write loop reads the bytes it writes and no other hidden register; `I` is what it leaves. -/
theorem fifoWrite_agree {α : Type} {K : Hidden → α} {k : Nat} {s t : State} (h : AgreeOn K s t) (hk : k ≤ 64)
    (hframe : frameBytes k t.hid = frameBytes k s.hid) (hK : ∀ h x, K { h with i := x } = K h) :
    AgreeOn K (fifoWrite k s) (fifoWrite k t) := by
  obtain ⟨ho, hr, hc, hb, hq, hh⟩ := h
  obtain ⟨opr_s, res_s, ctl_s, request_s, hid_s, rx_s, answers_s, reads_s, cs_s, trace_s⟩ := fifoWrite_spec k s hk
  obtain ⟨opr_t, res_t, ctl_t, request_t, hid_t, rx_t, answers_t, reads_t, cs_t, trace_t⟩ := fifoWrite_spec k t hk
  have hbytes : firstBytes t.hid.frame k = firstBytes s.hid.frame k := hframe
  have hbus : (fifoWrite k t).bus = (fifoWrite k s).bus :=
    bus_eq (by rw [cs_t, cs_s, hb]) (by rw [rx_t, rx_s, hb]) (by rw [answers_t, answers_s, hb])
      (by rw [reads_t, reads_s, hb]) (by rw [trace_t, trace_s, hb, hbytes])
  exact ⟨by rw [opr_t, opr_s, ho], by rw [res_t, res_s, hr], by rw [ctl_t, ctl_s, hc], hbus, by rw [request_t, request_s, hq],
    by rw [hid_t, hid_s]; exact (hK t.hid _).trans (hh.trans (hK s.hid _).symm)⟩

section Sequences

variable {p : Config.Params} {s t : State}

/-! ### `Crc`. -/

theorem crcPoll_agree {k : Nat} (f : Nat) : ∀ {s t : State}, AgreeOn (fun h => (h.cnt, frameBytes k h)) s t →
    AgreeOn (fun h => (h.cnt, frameBytes k h)) (crcPoll p f s) (crcPoll p f t) := by
  induction f with
  | zero => exact fun h => h
  | succ f ih =>
    intro s t h
    obtain ⟨ho, hr, hc, hb, hq, hh⟩ := h
    simp only [Prod.mk.injEq, frameBytes] at hh
    obtain ⟨hcnt, hframe⟩ := hh
    have hturn : AgreeOn (fun h => (h.cnt, frameBytes k h)) (crcPollTurn p s) (crcPollTurn p t) := by
      simp [agreeOn_iff, frameBytes, ho, hr, hc, hb, hq, hcnt, hframe]
    have hdone : crcPollDone p (crcPollTurn p t).hid = crcPollDone p (crcPollTurn p s).hid := by
      simp [crcPollDone, hb, hcnt]
    simp only [crcPoll, hdone]
    split
    · exact hturn
    · exact ih hturn

/-- Steps 1 and 2 of R161. -/
theorem crc_open_agree {k : Nat} (h : AgreeOn (frameBytes k) s t) : AgreeOn (frameBytes k)
    (setBits p regFifolevel p.fifoFlush (clearBits p p.regCrcirq p.crcDone s))
    (setBits p regFifolevel p.fifoFlush (clearBits p p.regCrcirq p.crcDone t)) := by
  obtain ⟨ho, hr, hc, hb, hq, hh⟩ := h
  simp only [frameBytes] at hh
  simp [agreeOn_iff, frameBytes, ho, hr, hc, hb, hq, hh]

/-- Step 4 of R161, and the start of step 5. -/
theorem crc_command_agree {k : Nat} (h : AgreeOn (frameBytes k) s t) : AgreeOn (fun h => (h.cnt, frameBytes k h))
    (setCnt (BitVec.ofNat 16 crcPollMax) (issueCommand cmdCalccrcByte s))
    (setCnt (BitVec.ofNat 16 crcPollMax) (issueCommand cmdCalccrcByte t)) := by
  obtain ⟨ho, hr, hc, hb, hq, hh⟩ := h
  simp only [frameBytes] at hh
  simp [agreeOn_iff, frameBytes, ho, hr, hc, hb, hq, hh]

/-- Step 6 of R161. -/
theorem crc_results_agree {k : Nat} (h : AgreeOn (fun h => (h.cnt, frameBytes k h)) s t) :
    AgreeOn (fun h => (frameBytes k h, crcRegs h)) (readC1 p (readC0 p s)) (readC1 p (readC0 p t)) := by
  obtain ⟨ho, hr, hc, hb, hq, hh⟩ := h
  simp only [Prod.mk.injEq, frameBytes] at hh
  simp [agreeOn_iff, frameBytes, crcRegs, ho, hr, hc, hb, hq, hh]

/-- `Crc(k)` reads the first `k` bytes of the frame, and leaves them and the two CRC bytes. -/
theorem crc_agree {k : Nat} (hk : k ≤ 64) (h : AgreeOn (frameBytes k) s t) :
    AgreeOn (fun h => (frameBytes k h, crcRegs h)) (crc p k s) (crc p k t) := by
  have opened := crc_open_agree (p := p) h
  have written := fifoWrite_agree opened hk opened.hid fun _ _ => rfl
  exact crc_results_agree (crcPoll_agree crcPollMax (crc_command_agree written))

/-! ### `Exec`. -/

/-- Steps 1 to 4 of R181 up to Idle. -/
theorem exec_open_agree (cmd : Byte) (h : AgreeOn frameRegs s t) : AgreeOn (fun h => (frameRegs h, commandRegs h))
    (issueCommand cmdIdleByte (setBits p regFifolevel p.fifoFlush (clearIrq p (execEnable p (execSetup cmd s)))))
    (issueCommand cmdIdleByte (setBits p regFifolevel p.fifoFlush (clearIrq p (execEnable p (execSetup cmd t))))) := by
  obtain ⟨ho, hr, hc, hb, hq, hh⟩ := h
  simp only [frameRegs, frameBytes, Prod.mk.injEq] at hh
  obtain ⟨hlen, hframe⟩ := hh
  rw [hlen] at hframe
  simp [agreeOn_iff, frameRegs, frameBytes, commandRegs, clearIrq, ho, hr, hc, hb, hq, hlen, hframe]

/-- The frame of step 4. -/
theorem exec_fifo_agree (hf : s.hid.flen.toNat ≤ 64) (h : AgreeOn (fun h => (frameRegs h, commandRegs h)) s t) :
    AgreeOn commandRegs (execFifo s) (execFifo t) := by
  have hh := h.hid
  simp only [frameRegs, Prod.mk.injEq] at hh
  obtain ⟨⟨hlen, hframe⟩, hcommand⟩ := hh
  rw [hlen] at hframe
  simp only [execFifo, hlen]
  exact fifoWrite_agree (h.on hcommand) hf hframe fun _ _ => rfl

/-- The command of step 4, step 5 and the start of step 6. -/
theorem exec_send_agree (h : AgreeOn commandRegs s t) : AgreeOn (fun h => (h.cnt, commandRegs h))
    (setCnt (BitVec.ofNat 16 execPollMax) (execSend p (execCommand s)))
    (setCnt (BitVec.ofNat 16 execPollMax) (execSend p (execCommand t))) := by
  obtain ⟨ho, hr, hc, hb, hq, hh⟩ := h
  simp only [commandRegs, Prod.mk.injEq] at hh
  obtain ⟨hcmdr, hrest⟩ := hh
  simp only [execSend, execCommand_hid, hcmdr]
  split <;> simp [agreeOn_iff, commandRegs, ho, hr, hc, hb, hq, hcmdr, hrest]

/-- The registers after a turn of the poll of step 6. -/
def pollRegs (h : Hidden) : Byte × BitVec 16 × Byte × Byte × Byte × Status × BitVec 16 × BitVec 5 × Vector Byte 16 :=
  (h.n, h.cnt, commandRegs h)

theorem execPollTurn_agree (h : AgreeOn (fun h => (h.cnt, commandRegs h)) s t) :
    AgreeOn pollRegs (execPollTurn p s) (execPollTurn p t) := by
  obtain ⟨ho, hr, hc, hb, hq, hh⟩ := h
  simp only [commandRegs, Prod.mk.injEq] at hh
  obtain ⟨hcnt, hrest⟩ := hh
  simp [agreeOn_iff, pollRegs, commandRegs, ho, hr, hc, hb, hq, hcnt, hrest]

theorem execPollDone_congr {h h' : Hidden} (hh : pollRegs h' = pollRegs h) : execPollDone p h' = execPollDone p h := by
  simp only [pollRegs, commandRegs, Prod.mk.injEq] at hh
  simp [execPollDone, hh]

theorem delay_agree {α : Type} {K : Hidden → α} (ms : Nat) (h : AgreeOn K s t) : AgreeOn K (delay ms s) (delay ms t) := by
  obtain ⟨ho, hr, hc, hb, hq, hh⟩ := h
  simp [agreeOn_iff, ho, hr, hc, hb, hq, hh]

/-- One turn of the poll and its test (R188). -/
theorem execPoll_succ (p : Config.Params) (f : Nat) (s : State) : execPoll p (f + 1) s =
    if execPollDone p (execPollTurn p s).hid then execPollTurn p s
    else execPoll p f (delay execPollDelayMs (execPollTurn p s)) := rfl

theorem execPoll_agree (f : Nat) : ∀ {s t : State}, AgreeOn (fun h => (h.cnt, commandRegs h)) s t →
    AgreeOn pollRegs (execPoll p (f + 1) s) (execPoll p (f + 1) t) := by
  induction f with
  | zero =>
    intro s t h
    have hturn := execPollTurn_agree (p := p) h
    rw [execPoll_succ p _ s, execPoll_succ p _ t, execPollDone_congr hturn.hid]
    split
    · exact hturn
    · exact delay_agree execPollDelayMs hturn
  | succ f ih =>
    intro s t h
    have hturn := execPollTurn_agree (p := p) h
    rw [execPoll_succ p _ s, execPoll_succ p _ t, execPollDone_congr hturn.hid]
    split
    · exact hturn
    · have hwait := delay_agree execPollDelayMs hturn
      exact ih (hwait.on (congrArg Prod.snd hwait.hid))

theorem execStop_agree (h : AgreeOn pollRegs s t) : AgreeOn pollRegs (execStop p s) (execStop p t) := by
  obtain ⟨ho, hr, hc, hb, hq, hh⟩ := h
  simp only [pollRegs, commandRegs, Prod.mk.injEq] at hh
  simp [agreeOn_iff, execStop, pollRegs, commandRegs, ho, hr, hc, hb, hq, hh]

theorem drains_agree (k : Nat) : ∀ {s t : State}, AgreeOn (fun h => (h.i, outcomeRegs h)) s t →
    AgreeOn (fun h => (h.i, outcomeRegs h)) (drains p k s) (drains p k t) := by
  induction k with
  | zero => exact fun h => h
  | succ k ih =>
    intro s t h
    obtain ⟨ho, hr, hc, hb, hq, hh⟩ := h
    simp only [outcomeRegs, Prod.mk.injEq] at hh
    exact ih (by simp [agreeOn_iff, outcomeRegs, ho, hr, hc, hb, hq, hh])

/-- The reception of step 8. -/
theorem execReceive_agree (h : AgreeOn outcomeRegs s t) : AgreeOn outcomeRegs (execReceive p s) (execReceive p t) := by
  have hcount : AgreeOn (fun h => (h.i, outcomeRegs h)) (execCount (readLastbits p (readL p s)))
      (execCount (readLastbits p (readL p t))) := by
    obtain ⟨ho, hr, hc, hb, hq, hh⟩ := h
    simp only [outcomeRegs, Prod.mk.injEq] at hh
    simp [agreeOn_iff, outcomeRegs, ho, hr, hc, hb, hq, hh]
  have hh := hcount.hid
  simp only [outcomeRegs, Prod.mk.injEq] at hh
  obtain ⟨-, -, -, hxlen, -⟩ := hh
  have hdrain := drains_agree (p := p) (execCount (readLastbits p (readL p s))).hid.xlen.toNat hcount
  simp only [execReceive, execDrain, hxlen]
  exact hdrain.on (congrArg Prod.snd hdrain.hid)

/-- Steps 8 and 9. -/
theorem execConclude_agree (h : AgreeOn pollRegs s t) : AgreeOn outcomeRegs (execConclude p s) (execConclude p t) := by
  have hh := h.hid
  simp only [pollRegs, commandRegs, Prod.mk.injEq] at hh
  obtain ⟨hn, hcnt, hcmdr, hirqen, -, houtcome⟩ := hh
  have hjudge : AgreeOn outcomeRegs (execJudge p (readE p s)) (execJudge p (readE p t)) := by
    obtain ⟨ho, hr, hc, hb, hq, -⟩ := h
    simp [agreeOn_iff, outcomeRegs, ho, hr, hc, hb, hq, hn, hirqen, houtcome]
  have he : (execJudge p (readE p t)).hid.e = (execJudge p (readE p s)).hid.e := by simp [h.bus]
  have hcmdr' : (execJudge p (readE p t)).hid.cmdr = (execJudge p (readE p s)).hid.cmdr := by simpa using hcmdr
  simp only [execConclude, execResult, hcnt, he, hcmdr']
  split_ifs
  · exact h.on (by simpa [outcomeRegs] using houtcome)
  · exact hjudge
  · exact execReceive_agree hjudge
  · exact hjudge

/-- `Exec` reads the frame and its length, and leaves the outcome. -/
theorem executor_agree (cmd : Byte) (hf : s.hid.flen.toNat ≤ 64) (h : AgreeOn frameRegs s t) :
    AgreeOn outcomeRegs (executor p cmd s) (executor p cmd t) := by
  have written := exec_fifo_agree (by simpa [clearIrq] using hf) (exec_open_agree (p := p) cmd h)
  exact execConclude_agree (execStop_agree (execPoll_agree 1999 (exec_send_agree written)))

end Sequences

end Sys2Proof.Proofs

/-! PROOF. What no instruction's effect depends on: the hidden registers as they were before it. -/

namespace Sys2Proof.Proofs

open Sys2Proof.Machine Sys2Proof.Safety

section Bodies

variable {p : Config.Params} {s t : State}

/-! ### Single operations. -/

theorem busRead_agree {α : Type} {K : Hidden → α} (a : Byte) (h : AgreeOn K s t) :
    AgreeOn K (busRead p a s) (busRead p a t) := by
  obtain ⟨ho, hr, hc, hb, hq, hh⟩ := h
  simp [agreeOn_iff, ho, hr, hc, hb, hq, hh]

theorem busWrite_agree {α : Type} {K : Hidden → α} (a v : Byte) (h : AgreeOn K s t) :
    AgreeOn K (busWrite a v s) (busWrite a v t) := by
  obtain ⟨ho, hr, hc, hb, hq, hh⟩ := h
  simp [agreeOn_iff, ho, hr, hc, hb, hq, hh]

theorem setBits_agree (a m : Byte) (h : AgreeOn noRegs s t) : AgreeOn noRegs (setBits p a m s) (setBits p a m t) := by
  obtain ⟨ho, hr, hc, hb, hq, hh⟩ := h
  simp [agreeOn_iff, noRegs, ho, hr, hc, hb, hq]

theorem clearBits_agree (a m : Byte) (h : AgreeOn noRegs s t) :
    AgreeOn noRegs (clearBits p a m s) (clearBits p a m t) := by
  obtain ⟨ho, hr, hc, hb, hq, hh⟩ := h
  simp [agreeOn_iff, noRegs, ho, hr, hc, hb, hq]

theorem refuse_agree (h : AgreeOn noRegs s t) : AgreeOn noRegs (refuse s) (refuse t) := by
  obtain ⟨ho, hr, hc, hb, hq, hh⟩ := h
  simp [agreeOn_iff, noRegs, ho, hr, hc, hb, hq]

theorem setFlag_agree (b : Bool) (h : AgreeOn noRegs s t) : AgreeOn noRegs (setFlag b s) (setFlag b t) := by
  obtain ⟨ho, hr, hc, hb, hq, hh⟩ := h
  simp [agreeOn_iff, noRegs, ho, hr, hc, hb, hq]

theorem deliverCrc_agree (h : AgreeOn crcRegs s t) : AgreeOn noRegs (deliverCrc s) (deliverCrc t) := by
  obtain ⟨ho, hr, hc, hb, hq, hh⟩ := h
  simp only [crcRegs, Prod.mk.injEq] at hh
  simp [agreeOn_iff, noRegs, ho, hr, hc, hb, hq, hh]

theorem deliver_agree {st : Hidden → Status} (h : AgreeOn (fun h => (st h, outcomeRegs h)) s t) :
    AgreeOn noRegs (deliver (st s.hid) s) (deliver (st t.hid) t) := by
  obtain ⟨ho, hr, hc, hb, hq, hh⟩ := h
  simp only [outcomeRegs, Prod.mk.injEq] at hh
  simp [agreeOn_iff, noRegs, ho, hr, hc, hb, hq, hh]

/-! ### Frames. -/

/-- The operand bytes as CALCCRC and TOCARD load them. -/
theorem loadFrame_bytes_agree (hlen : s.opr.len.toNat ≤ 64) (h : AgreeOn noRegs s t) :
    AgreeOn (frameBytes s.opr.len.toNat) (loadFrame s) (loadFrame t) := by
  obtain ⟨ho, hr, hc, hb, hq, -⟩ := h
  have hframe := loadFrame_frame t (ho ▸ hlen)
  rw [ho, ← loadFrame_frame s hlen] at hframe
  exact ⟨by simp [ho], by simp [hr], by simp [hc], by simp [hb], by simp [hq], hframe⟩

theorem loadFrame_agree (hlen : s.opr.len.toNat ≤ 64) (h : AgreeOn noRegs s t) :
    AgreeOn frameRegs (loadFrame s) (loadFrame t) := by
  have hbytes := loadFrame_bytes_agree hlen h
  have hflen : ∀ u, (loadFrame u).hid.flen = u.opr.len := fun u => by simp
  exact hbytes.on (by simp only [frameRegs, hflen, h.opr, hbytes.hid])

theorem frameRequest_agree (m : Byte) (h : AgreeOn noRegs s t) :
    AgreeOn frameRegs (frameRequest m s) (frameRequest m t) := by
  obtain ⟨ho, hr, hc, hb, hq, -⟩ := h
  have hframe : ∀ u, frameRegs (frameRequest m u).hid = (1, [m]) := fun u => by
    rw [← frameRequest_frame m u]; simp [frameRegs, frameBytes]
  exact ⟨by simp [ho], by simp [hr], by simp [hc], by simp [hb], by simp [hq], by rw [hframe, hframe]⟩

theorem frameAnticollision_agree (h : AgreeOn noRegs s t) :
    AgreeOn frameRegs (frameAnticollision s) (frameAnticollision t) := by
  obtain ⟨ho, hr, hc, hb, hq, -⟩ := h
  have hframe : ∀ u, frameRegs (frameAnticollision u).hid = (2, [0x93, 0x20]) := fun u => by
    rw [← frameAnticollision_frame u]; simp [frameRegs, frameBytes]
  exact ⟨by simp [ho], by simp [hr], by simp [hc], by simp [hb], by simp [hq], by rw [hframe, hframe]⟩

/-- The seven bytes over which SELECT computes its CRC. -/
theorem frameSelectHead_agree {uid : List Byte} (hu : uid.length = 5) (h : AgreeOn noRegs s t) :
    AgreeOn (frameBytes 7) (frameSelectHead uid s) (frameSelectHead uid t) := by
  obtain ⟨ho, hr, hc, hb, hq, -⟩ := h
  have hframe : ∀ u, frameBytes 7 (frameSelectHead uid u).hid = [piccSelectByte, nvbSelect] ++ uid := fun u => by
    simpa [frameBytes, hu] using firstBytes_storeBytes u.hid.frame ([piccSelectByte, nvbSelect] ++ uid) (by simp [hu])
  exact ⟨by simp [ho], by simp [hr], by simp [hc], by simp [hb], by simp [hq], by rw [hframe, hframe]⟩

/-- The two bytes over which HALT computes its CRC. -/
theorem frameHaltHead_agree (h : AgreeOn noRegs s t) :
    AgreeOn (frameBytes 2) (frameHaltHead s) (frameHaltHead t) := by
  obtain ⟨ho, hr, hc, hb, hq, -⟩ := h
  have hframe : ∀ u, frameBytes 2 (frameHaltHead u).hid = [piccHaltByte, haltSecondByte] := fun u => by
    simpa [frameBytes] using firstBytes_storeBytes u.hid.frame [piccHaltByte, haltSecondByte] (by simp)
  exact ⟨by simp [ho], by simp [hr], by simp [hc], by simp [hb], by simp [hq], by rw [hframe, hframe]⟩

/-- A frame is its head and the two CRC bytes behind it. -/
theorem frameBytes_appendCrc {k : Nat} (hk : k + 2 ≤ 64) (c0 c1 : Byte) (s : State) :
    frameBytes (k + 2) (appendCrc k c0 c1 s).hid = frameBytes k s.hid ++ [c0, c1] := by
  obtain ⟨h0, h1⟩ := byteAt_appendCrc (k := k) (by omega) c0 c1 s
  have hhead : frameBytes k (appendCrc k c0 c1 s).hid = frameBytes k s.hid := by
    apply List.ext_getElem (by simp [frameBytes, firstBytes])
    intro j hj _
    have hjk : j < k := by simp only [frameBytes, firstBytes, List.length_take] at hj; omega
    simp only [frameBytes, firstBytes, appendCrc_hid, List.getElem_take, Vector.getElem_toList]
    rw [Vector.getElem_setIfInBounds_ne _ (by omega), Vector.getElem_setIfInBounds_ne _ (by omega)]
  simp only [frameBytes] at hhead ⊢
  rw [firstBytes_succ _ (k + 1) (by omega), firstBytes_succ _ k (by omega), hhead, h0, h1, List.append_assoc]
  rfl

/-- A frame with its CRC appended, ready to be sent. -/
theorem appendCrc_agree {k : Nat} (hk : k + 2 ≤ 64) (c0 c1 : Byte) (h : AgreeOn (frameBytes k) s t) :
    AgreeOn frameRegs (appendCrc k c0 c1 s) (appendCrc k c0 c1 t) := by
  obtain ⟨ho, hr, hc, hb, hq, hh⟩ := h
  have hflen : ∀ u, (appendCrc k c0 c1 u).hid.flen = BitVec.ofNat 7 (k + 2) := fun u => by simp
  have hcount : (BitVec.ofNat 7 (k + 2)).toNat = k + 2 := by simp; omega
  exact ⟨by simp [ho], by simp [hr], by simp [hc], by simp [hb], by simp [hq], by
    simp only [frameRegs, hflen, hcount, frameBytes_appendCrc hk, hh]⟩

/-! ### Frames sent. -/

theorem executor_crcRegs (cmd : Byte) (hf : s.hid.flen.toNat ≤ 64) : crcRegs (executor p cmd s).hid = crcRegs s.hid := by
  obtain ⟨-, -, -, -, -, h0, h1, -⟩ := executor_cases p cmd s hf
  simp only [crcRegs, h0, h1]

theorem sendRequest_agree (m : Byte) (h : AgreeOn noRegs s t) :
    AgreeOn outcomeRegs (sendRequest p m s) (sendRequest p m t) :=
  executor_agree cmdTransceiveByte (by simp) (frameRequest_agree m (busWrite_agree regBitframing p.bitframingShort h))

theorem sendAnticollision_agree (h : AgreeOn noRegs s t) :
    AgreeOn outcomeRegs (sendAnticollision p s) (sendAnticollision p t) :=
  executor_agree cmdTransceiveByte (by simp) (frameAnticollision_agree (busWrite_agree regBitframing p.bitframingFull h))

/-- A frame sent with the CRC bytes appended: the outcome agrees. -/
theorem sendAppended_agree {k : Nat} (hk : k + 2 ≤ 64) (c0 c1 : Byte) (h : AgreeOn (frameBytes k) s t) :
    AgreeOn outcomeRegs (transceive p (appendCrc k c0 c1 s)) (transceive p (appendCrc k c0 c1 t)) :=
  executor_agree cmdTransceiveByte (by simp; omega) (appendCrc_agree hk c0 c1 h)

/-- A frame sent with the bytes that `Crc` left: they are there still, to be delivered. -/
theorem sendWithCrc_agree {k : Nat} (hk : k + 2 ≤ 64) (h : AgreeOn (fun h => (frameBytes k h, crcRegs h)) s t) :
    AgreeOn (fun h => (outcomeRegs h, crcRegs h)) (transceive p (appendCrc k s.hid.c0 s.hid.c1 s))
      (transceive p (appendCrc k t.hid.c0 t.hid.c1 t)) := by
  have hh := h.hid
  simp only [crcRegs, Prod.mk.injEq] at hh
  obtain ⟨hframe, h0, h1⟩ := hh
  have hcrc : ∀ u, crcRegs (transceive p (appendCrc k s.hid.c0 s.hid.c1 u)).hid = crcRegs u.hid := fun u => by
    rw [transceive, executor_crcRegs _ (by simp; omega)]
    simp [crcRegs]
  have hsent := sendAppended_agree (p := p) hk s.hid.c0 s.hid.c1 (h.on hframe)
  have hkept : crcRegs t.hid = crcRegs s.hid := congrArg Prod.snd h.hid
  rw [h0, h1]
  exact hsent.on (by rw [hsent.hid, hcrc, hcrc, hkept])

/-! ### Loops over the tick count. -/

theorem setCnt_agree (c : BitVec 16) (h : AgreeOn noRegs s t) : AgreeOn Hidden.cnt (setCnt c s) (setCnt c t) := by
  obtain ⟨ho, hr, hc, hb, hq, -⟩ := h
  simp [agreeOn_iff, ho, hr, hc, hb, hq]

theorem countDown_agree (h : AgreeOn Hidden.cnt s t) : AgreeOn Hidden.cnt (countDown s) (countDown t) := by
  obtain ⟨ho, hr, hc, hb, hq, hh⟩ := h
  simp [agreeOn_iff, ho, hr, hc, hb, hq, hh]

theorem readN_agree (a : Byte) (h : AgreeOn Hidden.cnt s t) :
    AgreeOn (fun h => (h.n, h.cnt)) (readN p a s) (readN p a t) := by
  obtain ⟨ho, hr, hc, hb, hq, hh⟩ := h
  simp [agreeOn_iff, ho, hr, hc, hb, hq, hh]

theorem waitPresentLoop_agree (f : Nat) : ∀ {s t : State}, AgreeOn Hidden.cnt s t →
    AgreeOn noRegs (waitPresentLoop p f s) (waitPresentLoop p f t) := by
  induction f with
  | zero => exact fun h => h.forget
  | succ f ih =>
    intro s t h
    have hturn := readN_agree (p := p) p.regIrqst (busWrite_agree regBitframing p.presentBitframing h)
    have hcnt : t.hid.cnt = s.hid.cnt := h.hid
    simp only [waitPresentLoop, hcnt]
    generalize readN p p.regIrqst (busWrite regBitframing p.presentBitframing s) = s',
      readN p p.regIrqst (busWrite regBitframing p.presentBitframing t) = t' at hturn ⊢
    have hn : t'.hid.n = s'.hid.n := congrArg Prod.fst hturn.hid
    rw [hn]
    split_ifs
    · exact setFlag_agree false h.forget
    · exact setFlag_agree true (clearBits_agree p.regIrqst p.irqClearMask hturn.forget)
    · exact ih (countDown_agree (delay_agree presentDelayMs (hturn.on (congrArg Prod.snd hturn.hid))))

theorem waitRemovedLoop_agree (f : Nat) : ∀ {s t : State}, AgreeOn Hidden.cnt s t →
    AgreeOn noRegs (waitRemovedLoop p f s) (waitRemovedLoop p f t) := by
  induction f with
  | zero => exact fun h => h.forget
  | succ f ih =>
    intro s t h
    have hturn := readN_agree (p := p) p.regIrqst h
    have hcnt : t.hid.cnt = s.hid.cnt := h.hid
    simp only [waitRemovedLoop, hcnt]
    generalize readN p p.regIrqst s = s', readN p p.regIrqst t = t' at hturn ⊢
    have hn : t'.hid.n = s'.hid.n := congrArg Prod.fst hturn.hid
    rw [hn]
    split_ifs
    · exact setFlag_agree false h.forget
    · exact setFlag_agree true hturn.forget
    · exact ih (countDown_agree (delay_agree removedDelayMs (hturn.on (congrArg Prod.snd hturn.hid))))

theorem initItems_agree (its : List Config.InitStep) : ∀ {s t : State}, AgreeOn noRegs s t →
    AgreeOn noRegs (initItems p its s) (initItems p its t) := by
  induction its with
  | nil => exact fun h => h
  | cons it its ih =>
    intro s t h
    cases it with
    | w a v => exact ih (busWrite_agree a v h)
    | s a m => exact ih (setBits_agree a m h)
    | c a m => exact ih (clearBits_agree a m h)
    | dly ms => exact ih (delay_agree ms h)

end Bodies

/-! ### The operations. -/

/-- A step list whose effect outside the hidden registers does not depend on them. -/
def Ignores (body : State → State) : Prop := ∀ s t, AgreeOn noRegs s t → AgreeOn noRegs (body s) (body t)

section Operations

variable (p : Config.Params)

theorem readreg_ignores : Ignores (bodyReadreg p) := by
  rintro s t ⟨ho, hr, hc, hb, hq, -⟩
  simp [agreeOn_iff, noRegs, bodyReadreg, ho, hr, hc, hb, hq]

theorem writereg_ignores : Ignores bodyWritereg := by
  intro s t h
  rw [bodyWritereg, bodyWritereg, h.opr]
  exact busWrite_agree _ _ h

theorem setbits_ignores : Ignores (bodySetbits p) := by
  intro s t h
  rw [bodySetbits, bodySetbits, h.opr]
  exact setBits_agree _ _ h

theorem clrbits_ignores : Ignores (bodyClrbits p) := by
  intro s t h
  rw [bodyClrbits, bodyClrbits, h.opr]
  exact clearBits_agree _ _ h

theorem classify_ignores : Ignores bodyClassify := by
  rintro s t ⟨ho, hr, hc, hb, hq, -⟩
  simp [agreeOn_iff, noRegs, bodyClassify, ho, hr, hc, hb, hq]

theorem refuse_ignores : Ignores refuse := fun _ _ => refuse_agree

theorem calccrc_ignores : Ignores (bodyCalccrc p) := by
  intro s t h
  by_cases hlen : s.opr.len.toNat ≤ 64
  · rw [bodyCalccrc_of_le hlen, bodyCalccrc_of_le (h.opr ▸ hlen), h.opr]
    have hcrc := crc_agree (p := p) hlen (loadFrame_bytes_agree hlen h)
    have hbytes : crcRegs _ = crcRegs _ := congrArg Prod.snd hcrc.hid
    exact deliverCrc_agree (hcrc.on hbytes)
  · have refused : ∀ u : State, u.opr = s.opr → bodyCalccrc p u = refuse u :=
      fun u hu => if_pos (by rw [hu]; exact Nat.lt_of_not_le hlen)
    rw [refused s rfl, refused t h.opr]
    exact refuse_agree h

theorem tocard_ignores : Ignores (bodyTocard p) := by
  intro s t h
  by_cases hlen : s.opr.len.toNat ≤ 64
  · rw [bodyTocard_of_le hlen, bodyTocard_of_le (h.opr ▸ hlen), h.opr]
    have hexec := executor_agree (p := p) s.opr.d (by simpa using hlen) (loadFrame_agree hlen h)
    have hh := hexec.hid
    simp only [outcomeRegs, Prod.mk.injEq] at hh
    exact deliver_agree (st := Hidden.xst) (hexec.on (by simp only [outcomeRegs, hh]))
  · have refused : ∀ u : State, u.opr = s.opr → bodyTocard p u = refuse u :=
      fun u hu => if_pos (by rw [hu]; exact Nat.lt_of_not_le hlen)
    rw [refused s rfl, refused t h.opr]
    exact refuse_agree h

theorem ispresent_ignores : Ignores (bodyIspresent p) := by
  intro s t h
  have hsent := sendRequest_agree (p := p) s.opr.d h
  have hh := hsent.hid
  simp only [outcomeRegs, Prod.mk.injEq] at hh
  rw [bodyIspresent, bodyIspresent, h.opr]
  exact deliver_agree (st := fun h => presenceGate h.xst h.xbits) (hsent.on (by simp only [outcomeRegs, hh]))

theorem readuid_ignores : Ignores (bodyReaduid p) := by
  intro s t h
  have hsent := sendAnticollision_agree (p := p) h
  have hh := hsent.hid
  simp only [outcomeRegs, Prod.mk.injEq] at hh
  exact deliver_agree (st := fun h => uidStatus h.xst h.xbuf) (hsent.on (by simp only [outcomeRegs, hh]))

theorem uidOperand_length (o : Operands) : (uidOperand o).length = 5 := firstBytes_length o.buf 5 (by omega)

theorem select_ignores : Ignores (bodySelect p) := by
  intro s t h
  have hcrc := crc_agree (p := p) (by omega) (frameSelectHead_agree (uidOperand_length s.opr) h)
  have hsent := sendWithCrc_agree (p := p) (by omega) hcrc
  obtain ⟨ho, hr, hc, hb, hq, hh⟩ := hsent
  simp only [outcomeRegs, crcRegs, Prod.mk.injEq] at hh
  rw [bodySelect, bodySelect, h.opr]
  refine deliverCrc_agree ?_
  simp only [sendSelect]
  simp only [agreeOn_iff, crcRegs, setVal_opr, setVal_res, setVal_hid, setVal_ctl, setVal_bus, setVal_request, ho, hr, hc, hb,
    hq, hh, and_self]

theorem halt_ignores : Ignores (bodyHalt p) := by
  intro s t h
  have hcrc := crc_agree (p := p) (by omega) (frameHaltHead_agree h)
  have hsent := sendWithCrc_agree (p := p) (by omega) hcrc
  exact deliverCrc_agree (hsent.on (congrArg Prod.snd hsent.hid))

theorem waitpresent_ignores : Ignores (bodyWaitpresent p) := by
  intro s t h
  rw [bodyWaitpresent, bodyWaitpresent, h.opr]
  exact waitPresentLoop_agree _ (setCnt_agree _ h)

theorem waitremoved_ignores : Ignores (bodyWaitremoved p) := by
  intro s t h
  rw [bodyWaitremoved, bodyWaitremoved, h.opr]
  exact waitRemovedLoop_agree _ (setCnt_agree _ (busWrite_agree _ _ h))

theorem init_ignores : Ignores (bodyInit p) := by
  intro s t h
  have hitems := initItems_agree (p := p) (p.initSequence s.opr.d) (busWrite_agree regCommand cmdSoftresetByte h)
  obtain ⟨ho, hr, hc, hb, hq, -⟩ := busRead_agree (p := p) regVersion hitems
  simp only [bodyInit, issueCommand, h.opr]
  simp only [agreeOn_iff, noRegs, initConclude_opr, initConclude_res, initConclude_ctl, initConclude_bus, initConclude_request,
    ho, hr, hc, hb, hq, and_self]

end Operations

/-- The start and the end of an operation do not look at the hidden registers. -/
theorem hostOperation_agree {q : Seq} {body : State → State} (hbody : Ignores body) {s t : State} (h : AgreeOn noRegs s t) :
    AgreeButHidden (hostOperation q body s) (hostOperation q body t) := by
  cases hbusy : s.ctl.busy with
  | true =>
    rw [hostOperation_of_busy hbusy, hostOperation_of_busy (h.ctl ▸ hbusy)]
    rfl
  | false =>
    rw [hostOperation_of_ready hbusy, hostOperation_of_ready (h.ctl ▸ hbusy)]
    have hstart : AgreeOn noRegs (takeStart q s) (takeStart q t) := by
      obtain ⟨ho, hr, hc, hb, hq, -⟩ := h
      simp [agreeOn_iff, noRegs, ho, hr, hb, hq]
    obtain ⟨ho, hr, hc, hb, hq, -⟩ := hbody _ _ hstart
    have hend : AgreeOn noRegs (finish (body (takeStart q s))) (finish (body (takeStart q t))) := by
      simp [agreeOn_iff, noRegs, ho, hr, hc, hb, hq]
    exact hend.next

/-- Two states that agree outside the hidden registers give outcomes that do. -/
theorem exec_agree (i : Instr) {s t : State} (h : AgreeOn noRegs s t) : AgreeButHidden (exec i s) (exec i t) := by
  cases i with
  | readreg => exact hostOperation_agree (readreg_ignores _) h
  | writereg => exact hostOperation_agree writereg_ignores h
  | setbits => exact hostOperation_agree (setbits_ignores _) h
  | clrbits => exact hostOperation_agree (clrbits_ignores _) h
  | calccrc => exact hostOperation_agree (calccrc_ignores _) h
  | tocard => exact hostOperation_agree (tocard_ignores _) h
  | ispresent => exact hostOperation_agree (ispresent_ignores _) h
  | waitpresent => exact hostOperation_agree (waitpresent_ignores _) h
  | waitremoved => exact hostOperation_agree (waitremoved_ignores _) h
  | readuid => exact hostOperation_agree (readuid_ignores _) h
  | select => exact hostOperation_agree (select_ignores _) h
  | classify => exact hostOperation_agree classify_ignores h
  | halt => exact hostOperation_agree (halt_ignores _) h
  | init => exact hostOperation_agree (init_ignores _) h
  | reservedE => exact hostOperation_agree refuse_ignores h
  | reservedF => exact hostOperation_agree refuse_ignores h
  | busrd a => exact (busRead_agree _ h).next
  | buswr a v => exact (busWrite_agree _ _ h).next
  | cmdIdle | cmdCalccrc | cmdTransceive | cmdAuthent | cmdSoftreset | cmdOther c => exact (busWrite_agree _ _ h).next
  | piccRequest m => exact (sendRequest_agree m h).next
  | piccAnticollision => exact (sendAnticollision_agree h).next
  | piccSelect u0 u1 u2 u3 u4 c0 c1 => exact (sendAppended_agree (by omega) c0 c1 (frameSelectHead_agree rfl h)).next
  | piccHalt c0 c1 => exact (sendAppended_agree (by omega) c0 c1 (frameHaltHead_agree h)).next

/-- Settles O24: step lists write what they read, sequence by sequence (`crc_agree`, `executor_agree`). -/
theorem hiddenRegistersDoNotMatter : Obligations.HiddenRegistersDoNotMatter := by
  unfold Obligations.HiddenRegistersDoNotMatter
  intro i s h
  exact exec_agree i ⟨rfl, rfl, rfl, rfl, rfl, rfl⟩

end Sys2Proof.Proofs

/-! PROOF. The bus words: the bytes and the pulses of one transaction. -/

namespace Sys2Proof.Proofs

open Sys2Proof.Machine Sys2Proof.Safety

/-! ### Address bytes and bus words. -/

/-- Settles O4: the three fields of either byte, and the formulas below 0x40. -/
theorem addressByteFields : Obligations.AddressByteFields := by
  unfold Obligations.AddressByteFields
  intro a
  refine ⟨by simp [isReadByte, readAddressByte], addressField_readAddressByte a, by simp [readAddressByte],
    by simp [isReadByte, writeAddressByte], addressField_writeAddressByte a, by simp [writeAddressByte], ?_⟩
  revert a
  decide

/-- Settles O25: both words are the bus primitive over the address they carry. -/
theorem busWordsTransact : Obligations.BusWordsTransact := by
  unfold Obligations.BusWordsTransact
  intro a v s
  have hread := busRead_eq params (byteOfAddr a) s
  have hwrite := busWrite_eq (byteOfAddr a) v s
  rw [setWidth_byteOfAddr] at hread hwrite
  exact ⟨congrArg Host.Outcome.next hread, congrArg Host.Outcome.next hwrite⟩

/-- The bit picture of a read's address byte is the document's formula (R62, R106). -/
theorem readAddressByte_byteOfAddr (a : RegAddr) : readAddressByte (byteOfAddr a) = 1#1 ++ a ++ 0#1 := by
  revert a; decide

/-- The bit picture of a write's address byte is the document's formula (R63, R107). -/
theorem writeAddressByte_byteOfAddr (a : RegAddr) : writeAddressByte (byteOfAddr a) = 0#1 ++ a ++ 0#1 := by
  revert a; decide

theorem bitsMsbFirst_length (b : Byte) : (bitsMsbFirst b).length = 8 := by simp [bitsMsbFirst]

/-- The window of one transaction: two exchanges of eight pulses between the two edges of chip-select (R61, R65). -/
theorem wireActions_of_two_exchanges {x y b0 b1 r1 : Byte} {ev : Event} (htx : isTransaction ev = true)
    (hsent : wireBytes params ev = [b0, b1]) (hreceived : wireReceived x y ev = [x, r1]) :
    wireActions params x y ev = [.chipSelect false] ++
      List.zipWith .clock (bitsMsbFirst b0 ++ bitsMsbFirst b1) (bitsMsbFirst x ++ bitsMsbFirst r1) ++ [.chipSelect true] := by
  have hpulses : List.zipWith WireAction.clock (bitsMsbFirst b0 ++ bitsMsbFirst b1) (bitsMsbFirst x ++ bitsMsbFirst r1) =
      exchangePulses b0 (bitsMsbFirst x) ++ exchangePulses b1 (bitsMsbFirst r1) := by
    rw [List.zipWith_append (by simp only [bitsMsbFirst_length]), exchangePulses_bitsMsbFirst, exchangePulses_bitsMsbFirst]
  rw [hpulses]
  cases ev with
  | rd a v | wr a v =>
    simp only [wireActions, hsent, hreceived, List.zipWith, List.flatten_cons, List.flatten_nil, List.append_nil]
    rfl
  | delay ms => cases htx

theorem wireActions_length {x y b0 b1 r1 : Byte} {ev : Event} (htx : isTransaction ev = true)
    (hsent : wireBytes params ev = [b0, b1]) (hreceived : wireReceived x y ev = [x, r1]) :
    (wireActions params x y ev).length = 18 := by
  rw [wireActions_of_two_exchanges htx hsent hreceived]
  simp [bitsMsbFirst_length]

/-- Settles O7: the words by their bit pictures, the exchange by its eight pulses, and the window of either transaction. -/
theorem busWordsAreTheWire : Obligations.BusWordsAreTheWire := by
  unfold Obligations.BusWordsAreTheWire
  refine ⟨fun a v => ⟨?_, ?_⟩, fun sent received => ⟨exchangeByte_bitsMsbFirst sent received,
    exchangePulses_bitsMsbFirst sent received⟩, fun x y ev htx => ?_⟩
  · simp only [wireBytes, encode, readAddressByte_byteOfAddr]
  · simp only [wireBytes, encode, writeAddressByte_byteOfAddr]
  · cases ev with
    | rd a v =>
      exact ⟨_, _, v, rfl, rfl, fun _ _ h => (by cases h; rfl), wireActions_of_two_exchanges htx rfl rfl,
        wireActions_length htx rfl rfl⟩
    | wr a v =>
      exact ⟨_, _, y, rfl, rfl, fun _ _ h => (by cases h), wireActions_of_two_exchanges htx rfl rfl,
        wireActions_length htx rfl rfl⟩
    | delay ms => cases htx

end Sys2Proof.Proofs

/-! PROOF. The FIFO of the PCD under the contract of R80: what the engine's own events leave in it, at a command and at every
point of an operation. -/

namespace Sys2Proof.Proofs

open Sys2Proof.Machine Sys2Proof.Safety

/-! ### Events that the FIFO has room for. -/

/-- From at most 64 bytes in the FIFO, the events put it above 64 at no point on the way. -/
def Fits (evs : List Event) : Prop :=
  ∀ q : List Byte, q.length ≤ 64 → ∀ pre, pre <+: evs → (fifoAfter params q pre).length ≤ 64

theorem fits_nil : Fits [] := by
  intro q hq pre hpre
  rw [List.prefix_nil.mp hpre]
  exact hq

theorem Fits.append {a b : List Event} (ha : Fits a) (hb : Fits b) : Fits (a ++ b) := by
  intro q hq pre hpre
  obtain hin | ⟨r, rfl⟩ := List.prefix_or_prefix_of_prefix hpre (List.prefix_append a b)
  · exact ha q hq pre hin
  · rw [fifoAfter_append]
    exact hb _ (ha q hq a List.prefix_rfl) r ((List.prefix_append_right_inj a).mp hpre)

/-- An event that leaves no more bytes in the FIFO than there were. -/
theorem fits_singleton {ev : Event} (h : ∀ q, (fifoEvent params q ev).length ≤ q.length) : Fits [ev] := by
  intro q hq pre hpre
  obtain rfl | ⟨t, rfl, ht⟩ := List.prefix_cons_iff.mp hpre
  · exact hq
  · rw [List.prefix_nil.mp ht]
    exact (h q).trans hq

theorem fits_rd (a : RegAddr) (v : Byte) : Fits [.rd a v] :=
  fits_singleton fun q => by simp only [fifoEvent]; split <;> simp

theorem fits_delay (ms : Nat) : Fits [.delay ms] := fits_singleton fun _ => Nat.le_refl _

/-- Only a write of the data register adds a byte. -/
theorem fits_wr {a : RegAddr} (h : a ≠ 0x09) (v : Byte) : Fits [.wr a v] := by
  have hdata : byteOfAddr a ≠ regFifodata := by revert a; decide
  refine fits_singleton fun q => ?_
  simp only [fifoEvent, hdata, if_false]
  split <;> simp

/-- Bytes written behind events that empty the FIFO, no more of them than it holds. -/
theorem Fits.append_fifoWrites {head : List Event} {bytes : List Byte} (hhead : Fits head)
    (hempty : ∀ q, fifoAfter params q head = []) (hlen : bytes.length ≤ 64) : Fits (head ++ fifoWrites bytes) := by
  intro q hq pre hpre
  obtain hin | ⟨r, rfl⟩ := List.prefix_or_prefix_of_prefix hpre (List.prefix_append head _)
  · exact hhead q hq pre hin
  · obtain ⟨written, hwritten, rfl⟩ := List.prefix_map_iff.mp ((List.prefix_append_right_inj head).mp hpre)
    have hfifo : fifoAfter params [] (fifoWrites written) = written := fifoAfter_fifoWrites params written []
    rw [fifoAfter_append, hempty]
    exact (congrArg List.length hfifo).le.trans (hwritten.length_le.trans hlen)

/-! ### The openings of `Crc` and `Exec`. -/

/-- The events of `Crc` before its bytes: the flag clear and the flush (R161). -/
def crcHead (f l : Byte) : List Event :=
  [.rd 0x05 f, .wr 0x05 (f &&& 0xFB), .rd 0x0A l, .wr 0x0A (l ||| 0x80)]

/-- The events of `Exec` before its bytes: the enable byte, the flag clear, the flush and Idle (R181). -/
def execHead (enable f l : Byte) : List Event :=
  [.wr 0x02 enable, .rd 0x04 f, .wr 0x04 (f &&& 0x7F), .rd 0x0A l, .wr 0x0A (l ||| 0x80), .wr 0x01 0x00]

theorem crcOpening_eq (f l : Byte) (bytes : List Byte) :
    crcOpening f l bytes = crcHead f l ++ fifoWrites bytes ++ [.wr 0x01 0x03] := by
  simp [crcOpening, crcHead]

theorem execOpening_eq (enable f l : Byte) (frame : List Byte) (cmd : Byte) :
    execOpening enable f l frame cmd = execHead enable f l ++ fifoWrites frame ++ [.wr 0x01 cmd] := by
  simp [execOpening, execHead]

/-- A write of the level register with the flush bit set empties the FIFO, whatever came before it (R71). -/
theorem fifoAfter_ends_flushed (q : List Byte) (evs : List Event) (l : Byte) :
    fifoAfter params q (evs ++ [.wr 0x0A (l ||| 0x80)]) = [] := by
  have hflush : anyBit (l ||| 0x80) params.fifoFlush = true := by revert l; decide
  rw [fifoAfter_append]
  simp only [fifoAfter, List.foldl_cons, List.foldl_nil, fifoEvent, hflush]
  rfl

theorem fifoAfter_crcHead (f l : Byte) (q : List Byte) : fifoAfter params q (crcHead f l) = [] :=
  fifoAfter_ends_flushed q [.rd 0x05 f, .wr 0x05 (f &&& 0xFB), .rd 0x0A l] l

theorem fifoAfter_execHead (enable f l : Byte) (q : List Byte) : fifoAfter params q (execHead enable f l) = [] := by
  have hidle : fifoAfter params [] [.wr 0x01 0x00] = [] := rfl
  rw [show execHead enable f l = ([.wr 0x02 enable, .rd 0x04 f, .wr 0x04 (f &&& 0x7F), .rd 0x0A l] ++
    [.wr 0x0A (l ||| 0x80)]) ++ [.wr 0x01 0x00] from rfl, fifoAfter_append, fifoAfter_ends_flushed, hidle]

theorem fits_crcHead (f l : Byte) : Fits (crcHead f l) :=
  (fits_rd 0x05 f).append <| (fits_wr (by decide) _).append <| (fits_rd 0x0A l).append (fits_wr (by decide) _)

theorem fits_execHead (enable f l : Byte) : Fits (execHead enable f l) :=
  (fits_wr (by decide) enable).append <| (fits_rd 0x04 f).append <| (fits_wr (by decide) _).append <|
    (fits_rd 0x0A l).append <| (fits_wr (by decide) _).append (fits_wr (by decide) _)

theorem fits_crcOpening {bytes : List Byte} (f l : Byte) (h : bytes.length ≤ 64) : Fits (crcOpening f l bytes) := by
  rw [crcOpening_eq]
  exact ((fits_crcHead f l).append_fifoWrites (fifoAfter_crcHead f l) h).append (fits_wr (by decide) _)

theorem fits_execOpening {frame : List Byte} (enable f l cmd : Byte) (h : frame.length ≤ 64) :
    Fits (execOpening enable f l frame cmd) := by
  rw [execOpening_eq]
  exact ((fits_execHead enable f l).append_fifoWrites (fifoAfter_execHead enable f l) h).append (fits_wr (by decide) _)

/-! ### Parts of an operation that the FIFO has room for. -/

/-- From `s` to `t` the trace grows by events that the FIFO has room for. -/
def FifoSafe (s t : State) : Prop := ∃ evs, t.bus.trace = s.bus.trace ++ evs ∧ Fits evs

theorem FifoSafe.of_trace {s t : State} (h : t.bus.trace = s.bus.trace) : FifoSafe s t := ⟨[], by simp [h], fits_nil⟩

theorem FifoSafe.trans {s t u : State} (h : FifoSafe s t) (k : FifoSafe t u) : FifoSafe s u := by
  obtain ⟨a, ha, ha'⟩ := h
  obtain ⟨b, hb, hb'⟩ := k
  exact ⟨a ++ b, by rw [hb, ha, List.append_assoc], ha'.append hb'⟩

theorem fifoSafe_delay (ms : Nat) (s : State) : FifoSafe s (delay ms s) := ⟨[.delay ms], by simp, fits_delay ms⟩

/-- A state whose bus has made one read more. -/
theorem FifoSafe.of_afterRead {s t : State} {a : RegAddr} (h : t.bus = afterRead a s.bus) : FifoSafe s t :=
  ⟨[.rd a (nextAnswer s.bus)], by simp [h], fits_rd _ _⟩

/-- A state whose bus has made one write more, not of the data register. -/
theorem FifoSafe.of_afterWrite {s t : State} {a : RegAddr} {v : Byte} (ha : a ≠ 0x09) (h : t.bus = afterWrite a v s.bus) :
    FifoSafe s t :=
  ⟨[.wr a v], by simp [h], fits_wr ha v⟩

theorem fifoSafe_busWrite {a : Byte} (ha : a.setWidth 6 ≠ 0x09#6) (v : Byte) (s : State) : FifoSafe s (busWrite a v s) :=
  .of_afterWrite (a := a.setWidth 6) (v := v) ha (by simp)

theorem fifoSafe_setBits {a : Byte} (ha : a.setWidth 6 ≠ 0x09#6) (m : Byte) (s : State) : FifoSafe s (setBits params a m s) := by
  have hread : FifoSafe s (readTmp params a s) := .of_afterRead (readTmp_bus params a s)
  exact hread.trans (.of_afterWrite (by simpa using ha) (writeSet_bus a m _))

theorem fifoSafe_clearBits {a : Byte} (ha : a.setWidth 6 ≠ 0x09#6) (m : Byte) (s : State) :
    FifoSafe s (clearBits params a m s) := by
  have hread : FifoSafe s (readTmp params a s) := .of_afterRead (readTmp_bus params a s)
  exact hread.trans (.of_afterWrite (by simpa using ha) (writeClear_bus a m _))

theorem fifoSafe_clearIrq (s : State) : FifoSafe s (clearIrq params s) := fifoSafe_clearBits (by decide) _ s

/-! ### `Crc` and `Exec`, whatever the PCD answers. -/

theorem fifoSafe_crcPoll (f : Nat) : ∀ s : State, FifoSafe s (crcPoll params f s) := by
  induction f with
  | zero => exact fun s => .of_trace rfl
  | succ f ih =>
    intro s
    have hturn : FifoSafe s (crcPollTurn params s) := .of_afterRead (crcPollTurn_bus params s)
    simp only [crcPoll]
    split
    · exact hturn
    · exact hturn.trans (ih _)

theorem fifoSafe_execPoll (f : Nat) : ∀ s : State, FifoSafe s (execPoll params f s) := by
  induction f with
  | zero => exact fun s => .of_trace rfl
  | succ f ih =>
    intro s
    have hturn : FifoSafe s (execPollTurn params s) := .of_afterRead (execPollTurn_bus params s)
    rw [execPoll_succ]
    split
    · exact hturn
    · exact hturn.trans ((fifoSafe_delay _ _).trans (ih _))

theorem fifoSafe_drains (k : Nat) : ∀ s : State, FifoSafe s (drains params k s) := by
  induction k with
  | zero => exact fun s => .of_trace rfl
  | succ k ih =>
    intro s
    have hone : FifoSafe s (drainOne params s) := .of_afterRead (drainOne_bus params s)
    exact hone.trans (ih _)

theorem fifoSafe_execReceive (s : State) : FifoSafe s (execReceive params s) := by
  have level : FifoSafe s (readL params s) := .of_afterRead (readL_bus params s)
  have control := fun s => FifoSafe.of_afterRead (readLastbits_bus params s)
  have count : ∀ s, FifoSafe s (execCount s) := fun s => .of_trace (by simp)
  exact level.trans ((control _).trans ((count _).trans (fifoSafe_drains _ _)))

theorem fifoSafe_execConclude (s : State) : FifoSafe s (execConclude params s) := by
  have judge : FifoSafe s (execJudge params (readE params s)) :=
    .of_afterRead ((execJudge_bus params _).trans (readE_bus params s))
  simp only [execConclude, execResult]
  split_ifs
  · exact .of_trace rfl
  · exact judge
  · exact judge.trans (fifoSafe_execReceive _)
  · exact judge

theorem fifoSafe_execSend (s : State) : FifoSafe s (execSend params s) := by
  unfold execSend
  split
  · exact fifoSafe_setBits (by decide) _ s
  · exact .of_trace rfl

/-- `Crc(k)` is its opening over the frame's bytes, and then nothing that overfills the FIFO (R161). -/
theorem crc_opens {k : Nat} (s : State) (hk : k ≤ 64) : ∃ t f l,
    t.bus.trace = s.bus.trace ++ crcOpening f l (firstBytes s.hid.frame k) ∧ FifoSafe t (crc params k s) := by
  generalize hu : setBits params regFifolevel params.fifoFlush (clearBits params params.regCrcirq params.crcDone s) = u
  have hframe : u.hid.frame = s.hid.frame := by rw [← hu]; simp
  obtain ⟨f, l, hhead⟩ : ∃ f l, u.bus.trace = s.bus.trace ++ crcHead f l :=
    ⟨_, _, by
      simp only [← hu, setBits_bus, clearBits_bus, afterWrite_trace, afterRead_trace, List.append_assoc]; rfl⟩
  obtain ⟨-, -, -, -, -, -, -, -, -, hbytes⟩ := fifoWrite_spec k u hk
  refine ⟨issueCommand cmdCalccrcByte (fifoWrite k u), f, l, ?_, ?_⟩
  · rw [crcOpening_eq, issueCommand_bus, afterWrite_trace, hbytes, hhead, hframe]
    simp [regCommand, cmdCalccrcByte]
  · have start : ∀ s, FifoSafe s (setCnt (BitVec.ofNat 16 crcPollMax) s) := fun s => .of_trace (by simp)
    have lo := fun s => FifoSafe.of_afterRead (readC0_bus params s)
    have mid := fun s => FifoSafe.of_afterRead (readC1_bus params s)
    simp only [crc, hu]
    exact (start _).trans ((fifoSafe_crcPoll _ _).trans ((lo _).trans (mid _)))

/-- `Exec(cmd)` is its opening over the frame, and then nothing that overfills the FIFO (R181). -/
theorem executor_opens (cmd : Byte) (s : State) (hf : s.hid.flen.toNat ≤ 64) : ∃ t enable f l,
    t.bus.trace = s.bus.trace ++ execOpening enable f l (firstBytes s.hid.frame s.hid.flen.toNat) cmd ∧
    FifoSafe t (executor params cmd s) := by
  generalize hu : issueCommand cmdIdleByte (setBits params regFifolevel params.fifoFlush
    (clearIrq params (execEnable params (execSetup cmd s)))) = u
  have hregs : u.hid.frame = s.hid.frame ∧ u.hid.flen = s.hid.flen ∧ u.hid.cmdr = cmd := by rw [← hu]; simp [clearIrq]
  obtain ⟨hframe, hflen, hcmdr⟩ := hregs
  obtain ⟨enable, f, l, hhead⟩ : ∃ enable f l, u.bus.trace = s.bus.trace ++ execHead enable f l :=
    ⟨_, _, _, by
      simp only [← hu, issueCommand_bus, setBits_bus, clearIrq, clearBits_bus, execEnable_bus, execSetup_bus, afterWrite_trace,
        afterRead_trace, List.append_assoc]; rfl⟩
  obtain ⟨-, -, -, -, hhid, -, -, -, -, hbytes⟩ := fifoWrite_spec u.hid.flen.toNat u (hflen ▸ hf)
  refine ⟨execCommand (execFifo u), enable, f, l, ?_, ?_⟩
  · rw [execOpening_eq, execCommand_bus, afterWrite_trace, execFifo, hhid, hbytes, hhead, hframe, hflen]
    simp [hcmdr, regCommand]
  · have start : ∀ s, FifoSafe s (setCnt (BitVec.ofNat 16 execPollMax) s) := fun s => .of_trace (by simp)
    have stop : ∀ s, FifoSafe s (execStop params s) := fifoSafe_clearBits (by decide) _
    simp only [executor, hu]
    exact (fifoSafe_execSend _).trans ((start _).trans ((fifoSafe_execPoll _ _).trans ((stop _).trans
      (fifoSafe_execConclude _))))

/-! ### The FIFO when the command is written. -/

/-- CALCCRC with operands it accepts runs `Crc` over the operand bytes (R160). -/
theorem exec_calccrc_opens {s : State} (hb : s.ctl.busy = false) (hlen : s.opr.len.toNat ≤ 64) :
    ∃ t f l post, exec .calccrc s = .next t ∧
      t.bus.trace = s.bus.trace ++ crcOpening f l (firstBytes s.opr.buf s.opr.len.toNat) ++ post := by
  obtain ⟨t, f, l, ht, post, hpost, -⟩ := crc_opens (k := s.opr.len.toNat) (loadFrame (takeStart .calccrcLoad s)) hlen
  have hframe := loadFrame_frame (takeStart .calccrcLoad s) hlen
  simp only [takeStart_opr] at hframe
  refine ⟨_, f, l, post, hostOperation_of_ready hb, ?_⟩
  rw [bodyCalccrc_of_le (s := takeStart .calccrcLoad s) hlen]
  simp only [finish_bus, deliverCrc_bus, takeStart_opr, hpost, ht, hframe, loadFrame_bus, takeStart_bus]

/-- TOCARD with operands it accepts runs `Exec` over the operand bytes (R180). -/
theorem exec_tocard_opens {s : State} (hb : s.ctl.busy = false) (hlen : s.opr.len.toNat ≤ 64) :
    ∃ t enable f l post, exec .tocard s = .next t ∧
      t.bus.trace = s.bus.trace ++ execOpening enable f l (firstBytes s.opr.buf s.opr.len.toNat) s.opr.d ++ post := by
  obtain ⟨t, enable, f, l, ht, post, hpost, -⟩ :=
    executor_opens s.opr.d (loadFrame (takeStart .tocardLoad s)) (by simpa using hlen)
  have hframe := loadFrame_frame (takeStart .tocardLoad s) hlen
  have hflen : (loadFrame (takeStart .tocardLoad s)).hid.flen = s.opr.len := by simp
  simp only [takeStart_opr] at hframe
  refine ⟨_, enable, f, l, post, hostOperation_of_ready hb, ?_⟩
  rw [bodyTocard_of_le (s := takeStart .tocardLoad s) hlen]
  simp only [finish_bus, deliver_bus, takeStart_opr, hpost, ht, hflen, hframe, loadFrame_bus, takeStart_bus]

/-- Settles O36: each opening flushes, writes the operand bytes and then the command. -/
theorem fifoHoldsTheOperandAtTheCommand : Obligations.FifoHoldsTheOperandAtTheCommand := by
  unfold Obligations.FifoHoldsTheOperandAtTheCommand
  intro s q hb hlen
  have holds : ∀ {head : List Event} (bytes : List Byte), fifoAfter params q head = [] →
      fifoAfter params q (head ++ fifoWrites bytes) = bytes := fun bytes hhead => by
    rw [fifoAfter_append, hhead, fifoAfter_fifoWrites, List.nil_append]
  constructor
  · obtain ⟨t, f, l, post, hexec, htrace⟩ := exec_calccrc_opens hb hlen
    exact ⟨t, _, post, hexec, by rw [htrace, crcOpening_eq, ← List.append_assoc], holds _ (fifoAfter_crcHead f l q)⟩
  · obtain ⟨t, enable, f, l, post, hexec, htrace⟩ := exec_tocard_opens hb hlen
    exact ⟨t, _, post, hexec, by rw [htrace, execOpening_eq, ← List.append_assoc],
      holds _ (fifoAfter_execHead enable f l q)⟩

/-! ### The FIFO at every point of an operation. -/

theorem fifoSafe_crc {k : Nat} (s : State) (hk : k ≤ 64) : FifoSafe s (crc params k s) := by
  obtain ⟨t, f, l, htrace, hrest⟩ := crc_opens s hk
  have hopen : FifoSafe s t := ⟨_, htrace, fits_crcOpening f l (by rw [firstBytes_length _ _ hk]; exact hk)⟩
  exact hopen.trans hrest

theorem fifoSafe_executor (cmd : Byte) {s : State} (hf : s.hid.flen.toNat ≤ 64) : FifoSafe s (executor params cmd s) := by
  obtain ⟨t, enable, f, l, htrace, hrest⟩ := executor_opens cmd s hf
  have hopen : FifoSafe s t := ⟨_, htrace, fits_execOpening enable f l cmd (by rw [firstBytes_length _ _ hf]; exact hf)⟩
  exact hopen.trans hrest

theorem fifoSafe_calccrc (s : State) : FifoSafe s (bodyCalccrc params s) := by
  unfold bodyCalccrc
  split_ifs with hlen
  · exact .of_trace (by simp)
  · have load : FifoSafe s (loadFrame s) := .of_trace (by simp)
    exact load.trans ((fifoSafe_crc _ (Nat.le_of_not_lt hlen)).trans (.of_trace (by simp)))

theorem fifoSafe_tocard (s : State) : FifoSafe s (bodyTocard params s) := by
  unfold bodyTocard
  split_ifs with hlen
  · exact .of_trace (by simp)
  · have load : FifoSafe s (loadFrame s) := .of_trace (by simp)
    have hflen : (loadFrame s).hid.flen.toNat ≤ 64 := by simpa [fifoCapacity] using hlen
    exact load.trans ((fifoSafe_executor s.opr.d hflen).trans (.of_trace (by simp)))

theorem fifoSafe_sendRequest (m : Byte) (s : State) : FifoSafe s (sendRequest params m s) := by
  have framing : FifoSafe s (busWrite regBitframing params.bitframingShort s) := fifoSafe_busWrite (by decide) _ s
  have frame : ∀ s, FifoSafe s (frameRequest m s) := fun s => .of_trace (by simp)
  exact framing.trans ((frame _).trans (fifoSafe_executor cmdTransceiveByte (by simp)))

theorem fifoSafe_ispresent (s : State) : FifoSafe s (bodyIspresent params s) :=
  (fifoSafe_sendRequest s.opr.d s).trans (.of_trace (by simp [bodyIspresent]))

theorem fifoSafe_sendAnticollision (s : State) : FifoSafe s (sendAnticollision params s) := by
  have framing : FifoSafe s (busWrite regBitframing params.bitframingFull s) := fifoSafe_busWrite (by decide) _ s
  have frame : ∀ s, FifoSafe s (frameAnticollision s) := fun s => .of_trace (by simp)
  exact framing.trans ((frame _).trans (fifoSafe_executor cmdTransceiveByte (by simp)))

theorem fifoSafe_readuid (s : State) : FifoSafe s (bodyReaduid params s) :=
  (fifoSafe_sendAnticollision s).trans (.of_trace (by simp [bodyReaduid]))

/-- A frame whose CRC is computed over its first `k` bytes and appended to them, and which is then sent. -/
theorem fifoSafe_sendWithCrc {k : Nat} (hk : k + 2 ≤ 64) (s : State) : FifoSafe s
    (transceive params (appendCrc k (crc params k s).hid.c0 (crc params k s).hid.c1 (crc params k s))) := by
  have append : ∀ c0 c1 s, FifoSafe s (appendCrc k c0 c1 s) := fun _ _ s => .of_trace (by simp)
  exact (fifoSafe_crc s (by omega)).trans ((append _ _ _).trans (fifoSafe_executor _ (by simp; omega)))

theorem fifoSafe_select (s : State) : FifoSafe s (bodySelect params s) := by
  have head : FifoSafe s (frameSelectHead (uidOperand s.opr) s) := .of_trace (by simp)
  exact head.trans ((fifoSafe_sendWithCrc (k := 7) (by omega) _).trans (.of_trace (by simp [bodySelect, sendSelect])))

theorem fifoSafe_halt (s : State) : FifoSafe s (bodyHalt params s) := by
  have head : FifoSafe s (frameHaltHead s) := .of_trace (by simp)
  exact head.trans ((fifoSafe_sendWithCrc (k := 2) (by omega) _).trans (.of_trace (by simp [bodyHalt, sendHalt])))

theorem fifoSafe_countDown_delay (ms : Nat) (s : State) : FifoSafe s (countDown (delay ms s)) :=
  (fifoSafe_delay ms s).trans (.of_trace (by simp))

theorem fifoSafe_waitPresentLoop (f : Nat) : ∀ s : State, FifoSafe s (waitPresentLoop params f s) := by
  induction f with
  | zero => exact fun s => .of_trace rfl
  | succ f ih =>
    intro s
    have flag : ∀ b s, FifoSafe s (setFlag b s) := fun b s => .of_trace (by simp)
    have framing : FifoSafe s (busWrite regBitframing params.presentBitframing s) := fifoSafe_busWrite (by decide) _ s
    have poll := framing.trans (.of_afterRead (readN_bus params params.regIrqst _))
    simp only [waitPresentLoop]
    split_ifs
    · exact flag _ _
    · exact poll.trans ((fifoSafe_clearIrq _).trans (flag _ _))
    · exact poll.trans ((fifoSafe_countDown_delay _ _).trans (ih _))

theorem fifoSafe_waitRemovedLoop (f : Nat) : ∀ s : State, FifoSafe s (waitRemovedLoop params f s) := by
  induction f with
  | zero => exact fun s => .of_trace rfl
  | succ f ih =>
    intro s
    have flag : ∀ b s, FifoSafe s (setFlag b s) := fun b s => .of_trace (by simp)
    have poll : FifoSafe s (readN params params.regIrqst s) := .of_afterRead (readN_bus params params.regIrqst s)
    simp only [waitRemovedLoop]
    split_ifs
    · exact flag _ _
    · exact poll.trans (flag _ _)
    · exact poll.trans ((fifoSafe_countDown_delay _ _).trans (ih _))

theorem fifoSafe_waitpresent (s : State) : FifoSafe s (bodyWaitpresent params s) := by
  have start : FifoSafe s (setCnt s.opr.t s) := .of_trace (by simp)
  exact start.trans (fifoSafe_waitPresentLoop _ _)

theorem fifoSafe_waitremoved (s : State) : FifoSafe s (bodyWaitremoved params s) := by
  have framing : FifoSafe s (busWrite regBitframing params.bitframingFull s) := fifoSafe_busWrite (by decide) _ s
  have start : ∀ t, FifoSafe t (setCnt s.opr.t t) := fun t => .of_trace (by simp)
  exact framing.trans ((start _).trans (fifoSafe_waitRemovedLoop _ _))

theorem fifoSafe_classify (s : State) : FifoSafe s (bodyClassify s) := .of_trace (by simp [bodyClassify])

/-- The start and the end of an operation are not on the bus. -/
theorem hostOperation_fifoSafe {q : Seq} {body : State → State} (hbody : ∀ s, FifoSafe s (body s)) {s t : State}
    (h : hostOperation q body s = .next t) : FifoSafe s t := by
  cases hb : s.ctl.busy with
  | true => rw [hostOperation_of_busy hb] at h; cases h
  | false =>
    rw [hostOperation_of_ready hb] at h
    cases h
    have start : FifoSafe s (takeStart q s) := .of_trace (by simp)
    exact start.trans ((hbody _).trans (.of_trace (by simp)))

/-- The operations that build or send a frame, those that wait for a card and CLASSIFY. -/
theorem exec_fifoSafe {i : Instr} {s t : State}
    (hi : i ∈ [Instr.calccrc, .tocard, .ispresent, .waitpresent, .waitremoved, .readuid, .select, .classify, .halt])
    (h : exec i s = .next t) : FifoSafe s t := by
  cases i with
  | calccrc => exact hostOperation_fifoSafe fifoSafe_calccrc h
  | tocard => exact hostOperation_fifoSafe fifoSafe_tocard h
  | ispresent => exact hostOperation_fifoSafe fifoSafe_ispresent h
  | waitpresent => exact hostOperation_fifoSafe fifoSafe_waitpresent h
  | waitremoved => exact hostOperation_fifoSafe fifoSafe_waitremoved h
  | readuid => exact hostOperation_fifoSafe fifoSafe_readuid h
  | select => exact hostOperation_fifoSafe fifoSafe_select h
  | classify => exact hostOperation_fifoSafe fifoSafe_classify h
  | halt => exact hostOperation_fifoSafe fifoSafe_halt h
  | _ => simp at hi

/-- Settles O38: each operation adds events that fit from any content of at most 64 bytes, and so does every beginning of them. -/
theorem fifoNeverOverfilled : Obligations.FifoNeverOverfilled := by
  unfold Obligations.FifoNeverOverfilled
  intro i s t q pre post hi h hq htrace
  obtain ⟨evs, hevs, hfits⟩ := exec_fifoSafe hi h
  rw [hevs, List.append_assoc] at htrace
  exact hfits q hq pre ⟨post, (List.append_cancel_left htrace).symm⟩

end Sys2Proof.Proofs

/-! PROOF. The encodings: per format, decoding undoes encoding, and bytes that decode are the encoding of what they decode to; and
a placed word is run. -/

namespace Sys2Proof.Proofs

open Sys2Proof.Machine Sys2Proof.Safety

/-! ### Encodings. -/

/-- The bytes are the encoding, in the format, of a well-formed instruction. -/
def IsEncoding (f : Format) (bytes : List Byte) (i : Instr) : Prop := i.wellFormed = true ∧ i.format = f ∧ encode i = bytes

/-- A decoder behind a guard answers only where the guard holds. -/
theorem ok_of_guarded {c : Prop} [Decidable c] {e : DecodeError} {i j : Instr}
    (h : (if c then Except.ok i else Except.error e) = Except.ok j) : c ∧ i = j := by
  split at h
  next hc => exact ⟨hc, Except.ok.inj h⟩
  next => cases h

/-! Format `HOP` (R102). -/

theorem decodeOp_wellFormed (op : BitVec 4) : (decodeOp op).wellFormed = true := by
  revert op; decide

theorem encode_decodeOp (op : BitVec 4) : encode (decodeOp op) = hopByte op := by
  revert op; decide

theorem decodeHop_nibble (op : BitVec 4) : decodeHop (0#4 ++ op) = .ok (decodeOp op) := by
  revert op; decide

/-- A byte with its upper four bits clear is the code in its lower four. -/
theorem nibble_of_high_clear {b : Byte} (h : b.extractLsb' 4 4 = 0) : 0#4 ++ b.extractLsb' 0 4 = b := by
  revert b; decide

theorem isEncoding_of_decodeHop {b : Byte} {i : Instr} (h : decodeHop b = .ok i) : IsEncoding .hop [b] i := by
  obtain ⟨hhigh, rfl⟩ := ok_of_guarded h
  exact ⟨decodeOp_wellFormed _, decodeOp_format _, by rw [encode_decodeOp, hopByte, nibble_of_high_clear hhigh]⟩

/-! Formats `BUSRD` and `BUSWR` (R106, R107). -/

theorem decodeBus_busrd (a : RegAddr) : decodeBus (1#1 ++ a ++ 0#1) params.dummyByte = .ok (.busrd a) := by
  obtain ⟨hread, haddr, hlow, -⟩ := addressByteFields (byteOfAddr a)
  rw [← readAddressByte_byteOfAddr]
  simp only [decodeBus, hread, haddr, hlow, setWidth_byteOfAddr, Bool.false_eq_true, if_false, if_true]

theorem decodeBus_buswr (a : RegAddr) (v : Byte) : decodeBus (0#1 ++ a ++ 0#1) v = .ok (.buswr a v) := by
  obtain ⟨-, -, -, hwrite, haddr, hlow, -⟩ := addressByteFields (byteOfAddr a)
  rw [← writeAddressByte_byteOfAddr]
  simp only [decodeBus, hwrite, haddr, hlow, setWidth_byteOfAddr, Bool.false_eq_true, if_false]

/-- An address byte with bit 0 clear is its direction bit, its address field and that bit (R64, R108). -/
theorem addressByte_of_low_clear {ab : Byte} (h : ab.getLsbD 0 = false) :
    BitVec.ofBool (isReadByte ab) ++ addressField ab ++ 0#1 = ab := by
  revert ab; decide

theorem isEncoding_of_decodeBus {ab db : Byte} {i : Instr} (h : decodeBus ab db = .ok i) : IsEncoding .bus [ab, db] i := by
  unfold decodeBus at h
  split_ifs at h with hlow hread hdummy
  · cases h
    have hab := addressByte_of_low_clear (Bool.of_not_eq_true hlow)
    rw [hread] at hab
    exact ⟨rfl, rfl, congrArg₂ (fun x y => [x, y]) hab hdummy.symm⟩
  · cases h
    have hab := addressByte_of_low_clear (Bool.of_not_eq_true hlow)
    rw [Bool.of_not_eq_true hread] at hab
    exact ⟨rfl, rfl, congrArg (fun x => [x, db]) hab⟩

/-! Format `PCDCMD` (R109, R110). -/

theorem cmdOther_wellFormed_iff {c : Byte} : (Instr.cmdOther c).wellFormed = true ↔ c ∉ namedCommands := by
  simp [Instr.wellFormed]

/-- A byte without a row of its own is a command of the last row. -/
theorem decodeCommand_of_not_named {c : Byte} (h : c ∉ namedCommands) : decodeCommand c = .cmdOther c := by
  simp only [namedCommands, List.mem_cons, List.not_mem_nil, or_false, not_or] at h
  obtain ⟨hidle, hcrc, htrans, hauth, hsoft⟩ := h
  simp [decodeCommand, hidle, hcrc, htrans, hauth, hsoft]

theorem isEncoding_decodeCommand (c : Byte) : IsEncoding .pcdcmd [c] (decodeCommand c) := by
  by_cases hnamed : c ∈ namedCommands
  · simp only [namedCommands, List.mem_cons, List.not_mem_nil, or_false] at hnamed
    obtain rfl | rfl | rfl | rfl | rfl := hnamed <;> exact ⟨rfl, rfl, rfl⟩
  · rw [decodeCommand_of_not_named hnamed]
    exact ⟨cmdOther_wellFormed_iff.mpr hnamed, rfl, rfl⟩

/-! Format `PICC` (R112 to R115). -/

/-- The length picks the frame, and its two leading bytes are then those of the frame. -/
theorem isEncoding_of_decodePicc {bytes : List Byte} {i : Instr} (h : decodePicc bytes = .ok i) : IsEncoding .picc bytes i := by
  unfold decodePicc at h
  split at h
  next m => cases h; exact ⟨rfl, rfl, rfl⟩
  next b0 b1 => obtain ⟨⟨rfl, rfl⟩, rfl⟩ := ok_of_guarded h; exact ⟨rfl, rfl, rfl⟩
  next b0 b1 c0 c1 => obtain ⟨⟨rfl, rfl⟩, rfl⟩ := ok_of_guarded h; exact ⟨rfl, rfl, rfl⟩
  next b0 b1 u0 u1 u2 u3 u4 c0 c1 => obtain ⟨⟨rfl, rfl⟩, rfl⟩ := ok_of_guarded h; exact ⟨rfl, rfl, rfl⟩
  next => cases h

/-! All formats. -/

/-- Settles O1: format by format; a host operation code is taken back as a whole, the other rows one by one. -/
theorem decodeOfEncode : Obligations.DecodeOfEncode := by
  unfold Obligations.DecodeOfEncode
  intro i hwf
  by_cases hop : i.format = .hop
  · obtain ⟨op, rfl⟩ := exists_decodeOp_of_hop hop
    rw [hop, encode_decodeOp]
    exact decodeHop_nibble op
  · cases i with
    | busrd a => exact decodeBus_busrd a
    | buswr a v => exact decodeBus_buswr a v
    | cmdOther c => exact congrArg Except.ok (decodeCommand_of_not_named (cmdOther_wellFormed_iff.mp hwf))
    | cmdIdle | cmdCalccrc | cmdTransceive | cmdAuthent | cmdSoftreset => rfl
    | piccRequest | piccAnticollision | piccSelect | piccHalt => rfl
    | _ => exact absurd rfl hop

/-- Settles O2: each format takes lists of its own length, and its decoder answers only with what the bytes encode. -/
theorem encodeOfDecode : Obligations.EncodeOfDecode := by
  unfold Obligations.EncodeOfDecode
  intro f bytes i h
  change IsEncoding f bytes i
  unfold decode at h
  split at h
  next b => exact isEncoding_of_decodeHop h
  next => cases h
  next ab db => exact isEncoding_of_decodeBus h
  next => cases h
  next c => cases h; exact isEncoding_decodeCommand c
  next => cases h
  next => exact isEncoding_of_decodePicc h

/-- Settles O3. -/
theorem wordsOfTheSpecDecode : Obligations.WordsOfTheSpecDecode := by
  unfold Obligations.WordsOfTheSpecDecode
  decide

/-- The address byte of a read does not see the two bits above the six of the bus (R142). -/
theorem readAddressByte_alias (a : Byte) : readAddressByte (byteOfAddr (a.setWidth 6)) = readAddressByte a := by
  revert a; decide

/-- The address byte of a write does not see the two bits above the six of the bus (R142). -/
theorem writeAddressByte_alias (a : Byte) : writeAddressByte (byteOfAddr (a.setWidth 6)) = writeAddressByte a := by
  revert a; decide

/-- Settles O6: the address of an event is the operand's low six bits, and the formulas give the same byte for both. -/
theorem busBytesByFormula : Obligations.BusBytesByFormula := by
  unfold Obligations.BusBytesByFormula
  intro a v
  exact ⟨congrArg (fun x => [x, params.dummyByte]) (readAddressByte_alias a),
    congrArg (fun x => [x, v]) (writeAddressByte_alias a)⟩

/-! ### Placed words. -/

theorem decodeTableWord_eq_some {nbits w : Nat} {i : Instr} (h : decodeTableWord nbits w = some i) :
    decode (tableFormat nbits w) (tableBytes nbits w) = .ok i := by
  unfold decodeTableWord at h
  split at h
  next hd => cases h; exact hd
  next => cases h

/-- Settles O9: a placed word stands in the request port in its format, and the step empties the port again. -/
theorem placedWordRunsNext : Obligations.PlacedWordRunsNext := by
  unfold Obligations.PlacedWordRunsNext
  intro s nbits w i h
  exact step_of_request (s := s.withFetchWord nbits w) rfl (decodeTableWord_eq_some h)

end Sys2Proof.Proofs

/-! PROOF. Operations that refuse, and the card frames: what each sends up to the start of the transmission. -/

namespace Sys2Proof.Proofs

open Sys2Proof.Machine Sys2Proof.Safety

/-! ### Refused operations. -/

/-- An operation whose step list refuses ends with `STATUS <- Error` and changes nothing else (R118, R303). -/
theorem hostOperation_of_refused {q : Seq} {body : State → State} {s : State} (hb : s.ctl.busy = false)
    (hbody : body (takeStart q s) = refuse (takeStart q s)) :
    hostOperation q body s = .next { s with res := { s.res with status := .error }, ctl := endedControl } := by
  rw [hostOperation_of_ready hb, hbody]
  rfl

theorem bodyCalccrc_of_lt {p : Config.Params} {s : State} (h : 64 < s.opr.len.toNat) : bodyCalccrc p s = refuse s := if_pos h

theorem bodyTocard_of_lt {p : Config.Params} {s : State} (h : 64 < s.opr.len.toNat) : bodyTocard p s = refuse s := if_pos h

/-- Settles O32: the four step lists refuse. -/
theorem refusedOperations : Obligations.RefusedOperations := by
  unfold Obligations.RefusedOperations
  intro s hb
  exact ⟨hostOperation_of_refused hb rfl, hostOperation_of_refused hb rfl, fun hlen =>
    ⟨hostOperation_of_refused hb (bodyCalccrc_of_lt hlen), hostOperation_of_refused hb (bodyTocard_of_lt hlen)⟩⟩

/-! ### A frame sent. -/

/-- Steps 1 to 4 of `Exec` for a Transceive, up to its Idle: the PCD is ready for the frame (R181). -/
def transceivePrepared (s : State) : State :=
  issueCommand cmdIdleByte (setBits params regFifolevel params.fifoFlush
    (clearIrq params (execEnable params (execSetup cmdTransceiveByte s))))

theorem transceivePrepared_hid (s : State) : (transceivePrepared s).hid.frame = s.hid.frame ∧
    (transceivePrepared s).hid.flen = s.hid.flen ∧ (transceivePrepared s).hid.cmdr = cmdTransceiveByte := by
  simp [transceivePrepared, clearIrq]

/-- The enable byte is the one of a Transceive, and its two reads are of the flag and level registers (R181, R183). -/
theorem transceivePrepared_trace (s : State) : ∃ f l,
    (transceivePrepared s).bus.trace = s.bus.trace ++ execHead 0xF7 f l := by
  have henable : (commandMasks cmdTransceiveByte).1 ||| params.irqGlobalEn = 0xF7 := by decide
  exact ⟨_, _, by
    simp only [transceivePrepared, issueCommand_bus, setBits_bus, clearIrq, clearBits_bus, execEnable_bus, execSetup_bus,
      afterWrite_trace, afterRead_trace, List.append_assoc, execSetup_hid, henable]
    rfl⟩

/-- The frame and the command behind the preparation (R181 step 4). -/
def transceiveCommanded (s : State) : State := execCommand (execFifo (transceivePrepared s))

theorem transceiveCommanded_cmdr {s : State} (hf : s.hid.flen.toNat ≤ 64) :
    (transceiveCommanded s).hid.cmdr = cmdTransceiveByte := by
  obtain ⟨-, hflen, hcmdr⟩ := transceivePrepared_hid s
  have hfit : (transceivePrepared s).hid.flen.toNat ≤ 64 := hflen ▸ hf
  obtain ⟨-, -, -, -, hhid, -⟩ := fifoWrite_spec _ (transceivePrepared s) hfit
  simp [transceiveCommanded, execFifo, hhid, hcmdr]

theorem transceiveCommanded_trace {s : State} (hf : s.hid.flen.toNat ≤ 64) : ∃ f l, (transceiveCommanded s).bus.trace =
    s.bus.trace ++ execOpening 0xF7 f l (firstBytes s.hid.frame s.hid.flen.toNat) 0x0C := by
  obtain ⟨hframe, hflen, hcmdr⟩ := transceivePrepared_hid s
  obtain ⟨f, l, hhead⟩ := transceivePrepared_trace s
  have hfit : (transceivePrepared s).hid.flen.toNat ≤ 64 := hflen ▸ hf
  obtain ⟨-, -, -, -, hhid, -, -, -, -, hbytes⟩ := fifoWrite_spec _ (transceivePrepared s) hfit
  refine ⟨f, l, ?_⟩
  rw [execOpening_eq, transceiveCommanded, execCommand_bus, afterWrite_trace, execFifo, hhid, hbytes, hhead, hframe, hflen]
  simp [hcmdr, regCommand, cmdTransceiveByte]

/-- The start-send of a Transceive (R181 step 5, R187). -/
theorem execSend_trace {s : State} (h : s.hid.cmdr = cmdTransceiveByte) : ∃ b,
    (execSend params s).bus.trace = s.bus.trace ++ startSend b :=
  ⟨_, by
    simp only [execSend, h, if_true, setBits_bus, afterWrite_trace, afterRead_trace, List.append_assoc]
    rfl⟩

/-- Behind the start-send come the poll, the stop-send and the reception, which only add to the trace (R181 steps 6 to 8). -/
theorem transceive_extends_execSend (s : State) : ∃ post,
    (transceive params s).bus.trace = (execSend params (transceiveCommanded s)).bus.trace ++ post := by
  have start : ∀ s, FifoSafe s (setCnt (BitVec.ofNat 16 execPollMax) s) := fun s => .of_trace (by simp)
  have stop : ∀ s, FifoSafe s (execStop params s) := fifoSafe_clearBits (by decide) _
  obtain ⟨post, hpost, -⟩ : FifoSafe (execSend params (transceiveCommanded s)) (transceive params s) :=
    (start _).trans ((fifoSafe_execPoll _ _).trans ((stop _).trans (fifoSafe_execConclude _)))
  exact ⟨post, hpost⟩

/-- A Transceive over the frame that the events `framing` and register updates have put into `FRAME` and `FLEN`. -/
theorem frameSent_transceive {framing : List Event} {frame : List Byte} {s t : State} (hkeeps : Keeps s t)
    (hframing : t.bus.trace = s.bus.trace ++ framing) (hlen : frame.length ≤ 64) (hflen : t.hid.flen.toNat = frame.length)
    (hframe : firstBytes t.hid.frame frame.length = frame) : FrameSent framing frame s (transceive params t) := by
  have hf : t.hid.flen.toNat ≤ 64 := hflen ▸ hlen
  obtain ⟨hsent, -, -, hframe', hflen', -⟩ := executor_cases params cmdTransceiveByte t hf
  obtain ⟨hopr, hres, hctl, hreq⟩ := hkeeps.trans hsent
  obtain ⟨f, l, hopening⟩ := transceiveCommanded_trace hf
  obtain ⟨b, hstart⟩ := execSend_trace (transceiveCommanded_cmdr hf)
  obtain ⟨post, hpost⟩ := transceive_extends_execSend t
  refine ⟨hopr, hres, hctl, hreq, (congrArg (firstBytes · _) hframe').trans hframe, (congrArg BitVec.toNat hflen').trans hflen,
    f, l, b, post, ?_⟩
  rw [hpost, hstart, hopening, hframing, hflen, hframe]

/-! ### The four card frames. -/

theorem busWrite_bitframing_trace (v : Byte) (s : State) :
    (busWrite regBitframing v s).bus.trace = s.bus.trace ++ [Event.wr 0x0D v] := by
  rw [busWrite_bus, afterWrite_trace]
  rfl

theorem frameSent_sendRequest (m : Byte) (s : State) : FrameSent [Event.wr 0x0D 0x07] [m] s (sendRequest params m s) :=
  frameSent_transceive ⟨by simp, by simp, by simp, by simp⟩ (busWrite_bitframing_trace 0x07 s) (by simp) (by simp)
    (frameRequest_frame m _)

theorem frameSent_sendAnticollision (s : State) :
    FrameSent [Event.wr 0x0D 0x00] [0x93, 0x20] s (sendAnticollision params s) :=
  frameSent_transceive ⟨by simp, by simp, by simp, by simp⟩ (busWrite_bitframing_trace 0x00 s) (by simp) (by simp)
    (frameAnticollision_frame _)

/-- A frame whose head stands in `FRAME`, sent with two CRC bytes behind it. -/
theorem frameSent_appendCrc {head : List Byte} {s t : State} (c0 c1 : Byte) (hkeeps : Keeps s t)
    (hbus : t.bus = s.bus) (hlen : head.length + 2 ≤ 64) (hhead : firstBytes t.hid.frame head.length = head) :
    FrameSent [] (head ++ [c0, c1]) s (transceive params (appendCrc head.length c0 c1 t)) := by
  have hflen : (BitVec.ofNat 7 (head.length + 2)).toNat = head.length + 2 := Nat.mod_eq_of_lt (by omega)
  have hframe := frameBytes_appendCrc hlen c0 c1 t
  simp only [frameBytes, hhead] at hframe
  exact frameSent_transceive (hkeeps.trans ⟨by simp, by simp, by simp, by simp⟩) (by simp [hbus]) (by simpa using hlen)
    (by simpa using hflen) (by simpa using hframe)

theorem frameSent_sendSelect {uid : List Byte} (hu : uid.length = 5) (c0 c1 : Byte) (s : State) :
    FrameSent [] ([0x93, 0x70] ++ uid ++ [c0, c1]) s (sendSelect params c0 c1 (frameSelectHead uid s)) := by
  have hsent := frameSent_appendCrc (head := [piccSelectByte, nvbSelect] ++ uid) (s := s) (t := frameSelectHead uid s) c0 c1
    ⟨by simp, by simp, by simp, by simp⟩ (by simp) (by simp [hu])
    (firstBytes_storeBytes s.hid.frame ([piccSelectByte, nvbSelect] ++ uid) (by simp [hu]))
  rwa [show ([piccSelectByte, nvbSelect] ++ uid).length = 7 by simp [hu]] at hsent

theorem frameSent_sendHalt (c0 c1 : Byte) (s : State) :
    FrameSent [] ([0x50, 0x00] ++ [c0, c1]) s (sendHalt params c0 c1 (frameHaltHead s)) :=
  frameSent_appendCrc (head := [piccHaltByte, haltSecondByte]) c0 c1 ⟨by simp, by simp, by simp, by simp⟩ (by simp) (by simp)
    (firstBytes_storeBytes s.hid.frame [piccHaltByte, haltSecondByte] (by simp))

/-- Settles O27: each frame is built by register updates, after the bit-framing write of its row, and sent by one Transceive. -/
theorem cardFramesAreSent : Obligations.CardFramesAreSent := by
  unfold Obligations.CardFramesAreSent
  intro s m u0 u1 u2 u3 u4 c0 c1
  exact ⟨⟨_, rfl, frameSent_sendRequest m s⟩, ⟨_, rfl, frameSent_sendAnticollision s⟩,
    ⟨_, rfl, frameSent_sendSelect (uid := [u0, u1, u2, u3, u4]) rfl c0 c1 s⟩, ⟨_, rfl, frameSent_sendHalt c0 c1 s⟩⟩

end Sys2Proof.Proofs

/-! PROOF. Register access: addresses that differ only above their six bits, and the four operations over `A` and `D`. -/

namespace Sys2Proof.Proofs

open Sys2Proof.Machine Sys2Proof.Safety

/-! ### Address operands that alias. -/

/-- The low six bits of an address operand, as a byte, are those the bus carries (R108). -/
theorem and_0x3F_eq_byteOfAddr (a : Byte) : a &&& 0x3F = byteOfAddr (a.setWidth 6) := by
  revert a; decide

/-- Settles O5: the primitives and both address bytes see an operand only through its low six bits. -/
theorem addressOperandsAlias : Obligations.AddressOperandsAlias := by
  unfold Obligations.AddressOperandsAlias
  intro a v s
  have hread : busRead params a s = busRead params (a &&& 0x3F) s := by
    rw [busRead_eq, busRead_eq, and_0x3F_eq_byteOfAddr, setWidth_byteOfAddr]
  have hwrite : busWrite a v s = busWrite (a &&& 0x3F) v s := by
    rw [busWrite_eq, busWrite_eq, and_0x3F_eq_byteOfAddr, setWidth_byteOfAddr]
  have hreadByte : readAddressByte a = readAddressByte (a &&& 0x3F) := by
    rw [and_0x3F_eq_byteOfAddr, readAddressByte_alias]
  have hwriteByte : writeAddressByte a = writeAddressByte (a &&& 0x3F) := by
    rw [and_0x3F_eq_byteOfAddr, writeAddressByte_alias]
  refine ⟨hread, hwrite, hreadByte, hwriteByte, ?_, ?_⟩
  · rw [busRead_bus, afterRead_trace, addressField_readAddressByte]
  · rw [busWrite_bus, afterWrite_trace, addressField_writeAddressByte]

/-! ### The four operations. -/

/-- An operation whose step list does not see the handshake does its step list and ends (R26, R28). -/
theorem hostOperation_of_commutes {q : Seq} {body : State → State} {s : State} (hb : s.ctl.busy = false)
    (hcomm : body (takeStart q s) = takeStart q (body s)) :
    hostOperation q body s = .next { body s with ctl := endedControl } := by
  rw [hostOperation_of_ready hb, hcomm]
  rfl

/-- What `VAL <- BusRead(a)` does. -/
theorem readVal_eq (p : Config.Params) (a : Byte) (s : State) : readVal p a s = { s with
    res := { s.res with val := nextAnswer s.bus }, bus := afterRead (a.setWidth 6) s.bus } :=
  state_eq (by simp) (by simp) (by simp) (by simp) (by simp) (by simp)

/-- Settles O28. -/
theorem readregResult : Obligations.ReadregResult := by
  unfold Obligations.ReadregResult
  intro s hb
  have hended : exec .readreg s = .next { readVal params s.opr.a s with ctl := endedControl } :=
    hostOperation_of_commutes hb rfl
  rw [hended, readVal_eq]

/-- Settles O29. -/
theorem writeregResult : Obligations.WriteregResult := by
  unfold Obligations.WriteregResult
  intro s hb
  have hended : exec .writereg s = .next { busWrite s.opr.a s.opr.d s with ctl := endedControl } :=
    hostOperation_of_commutes hb rfl
  rw [hended, busWrite_eq]

/-- Settles O30: the sequence leaves what `setBits_eq` says, and the operation adds the handshake. -/
theorem setbitsResult : Obligations.SetbitsResult := by
  unfold Obligations.SetbitsResult
  refine ⟨?_, fun s hb => ?_⟩
  · rintro a m _ s rfl
    rw [setBits_eq]
    exact ⟨rfl, List.append_assoc _ _ _⟩
  · have hended : exec .setbits s = .next { setBits params s.opr.a s.opr.d s with ctl := endedControl } :=
      hostOperation_of_commutes hb rfl
    rw [hended, setBits_eq]

/-- Settles O31: the sequence leaves what `clearBits_eq` says, and the operation adds the handshake. -/
theorem clrbitsResult : Obligations.ClrbitsResult := by
  unfold Obligations.ClrbitsResult
  refine ⟨?_, fun s hb => ?_⟩
  · rintro a m _ s rfl
    rw [clearBits_eq]
    exact ⟨rfl, List.append_assoc _ _ _⟩
  · have hended : exec .clrbits s = .next { clearBits params s.opr.a s.opr.d s with ctl := endedControl } :=
      hostOperation_of_commutes hb rfl
    rw [hended, clearBits_eq]

end Sys2Proof.Proofs

/-! PROOF. CALCCRC on ready answers: what it delivers is the two bytes read last, whether the done flag was seen or the polls ran
out. -/

namespace Sys2Proof.Proofs

open Sys2Proof.Machine Sys2Proof.Safety

/-- CALCCRC where the poll ends at the byte `d`, by the flag or because the counter is used up: the two bytes read next are
delivered, and nothing else of the results tells which of the two ended it (R162, R163). -/
theorem exec_calccrc_run {s : State} {f l : Byte} {quiet : List Byte} {d lo mid : Byte} {rest : List Byte}
    (hb : s.ctl.busy = false) (hlen : s.opr.len.toNat ≤ 64)
    (hans : s.bus.answers = f :: l :: (quiet ++ d :: lo :: mid :: rest)) (hpolls : quiet.length ≤ 254)
    (hquiet : ∀ b ∈ quiet, b &&& 0x04 = 0) (hend : d &&& 0x04 ≠ 0 ∨ quiet.length = 254) :
    ∃ t, exec .calccrc s = .next t ∧ t.res = { s.res with crc0 := lo, crc1 := mid } ∧
      t.opr = s.opr ∧ t.ctl = endedControl ∧ t.request = s.request ∧ t.bus.answers = rest ∧
      t.bus.trace = s.bus.trace ++ crcOpening f l (firstBytes s.opr.buf s.opr.len.toNat) ++
        (quiet ++ [d]).map (Event.rd 0x05) ++ [Event.rd 0x22 lo, Event.rd 0x21 mid] := by
  have hframe := loadFrame_frame (takeStart .calccrcLoad s) hlen
  obtain ⟨⟨hopr, hres, hctl, hreq⟩, -⟩ := crc_cases params s.opr.len.toNat (loadFrame (takeStart .calccrcLoad s)) hlen
  obtain ⟨hc0, hc1, hrest, htrace⟩ := crc_run (s := loadFrame (takeStart .calccrcLoad s)) hlen hans hpolls
    (fun b hmem => anyBit_eq_false_iff.mpr (hquiet b hmem))
    (hend.imp_left fun hd => Bool.of_not_eq_false fun h => hd (anyBit_eq_false_iff.mp h))
  rw [takeStart_opr] at hframe
  rw [hframe] at htrace
  refine ⟨_, hostOperation_of_ready hb, ?_⟩
  rw [bodyCalccrc_of_le (s := takeStart .calccrcLoad s) hlen]
  exact ⟨by simp [hres, hc0, hc1], by simp [hopr], finish_of_started hctl, by simp [hreq], hrest, htrace⟩

/-- Settles O33: the flag ends the poll. -/
theorem calccrcResult : Obligations.CalccrcResult := by
  unfold Obligations.CalccrcResult
  intro s f l quiet d lo mid rest hb hlen hpolls hquiet hd hans
  exact exec_calccrc_run hb hlen (by simp [hans]) hpolls hquiet (.inl hd)

/-- Settles O34: the counter ends the poll at the last of the 255 bytes, which is without the flag like those before it. -/
theorem calccrcTimeoutIsSilent : Obligations.CalccrcTimeoutIsSilent := by
  unfold Obligations.CalccrcTimeoutIsSilent
  intro s f l polled lo mid rest hb hlen hpolls hquiet hans
  obtain ⟨quiet, d, rfl⟩ : ∃ quiet d, polled = quiet ++ [d] :=
    ⟨_, _, (List.dropLast_append_getLast (List.ne_nil_of_length_pos (by omega))).symm⟩
  have hcount : quiet.length = 254 := by simpa using hpolls
  exact exec_calccrc_run hb hlen (by simp [hans]) hcount.le (fun b hmem => hquiet b (List.mem_append_left _ hmem)) (.inr hcount)

end Sys2Proof.Proofs

/-! PROOF. The values `Exec` decides on: the masks by command kind, the bits of the polled byte that end the poll, the bit count
and the drain count. -/

namespace Sys2Proof.Proofs

open Sys2Proof.Machine Sys2Proof.Safety

/-! ### The masks. -/

/-- The byte of `Exec`'s enable write (R181 step 2). -/
def enableByte (cmd : Byte) : Byte := (commandMasks cmd).1 ||| params.irqGlobalEn

/-- The bits of the polled byte that end the poll: the timer bit and the done group (R188). -/
def eventMask (cmd : Byte) : Byte := params.timerIrq ||| (commandMasks cmd).2

theorem commandMasks_authent : commandMasks 0x0E = (0x12, 0x10) := rfl

theorem commandMasks_transceive : commandMasks 0x0C = (0x77, 0x30) := rfl

theorem commandMasks_other {cmd : Byte} (ha : cmd ≠ 0x0E) (ht : cmd ≠ 0x0C) : commandMasks cmd = (0x00, 0x00) :=
  (if_neg ha).trans (if_neg ht)

theorem enableByte_eq (cmd : Byte) : enableByte cmd = if cmd = 0x0E then 0x92 else if cmd = 0x0C then 0xF7 else 0x80 := by
  unfold enableByte
  split_ifs with ha ht
  · rw [ha]; rfl
  · rw [ht]; rfl
  · rw [commandMasks_other ha ht]; rfl

theorem eventMask_eq (cmd : Byte) : eventMask cmd = if cmd = 0x0C then 0x31 else if cmd = 0x0E then 0x11 else 0x01 := by
  unfold eventMask
  split_ifs with ht ha
  · rw [ht]; rfl
  · rw [ha]; rfl
  · rw [commandMasks_other ha ht]; rfl

theorem enableByte_transceive : enableByte 0x0C = 0xF7 := enableByte_eq 0x0C

theorem eventMask_transceive : eventMask 0x0C = 0x31 := eventMask_eq 0x0C

/-- Settles O39; not named `commandMasks`, which would hide the model's function in this namespace. -/
theorem commandMasksHold : Obligations.CommandMasks := by
  unfold Obligations.CommandMasks
  intro cmd s
  have hwritten : (execEnable params (execSetup cmd s)).bus.trace = s.bus.trace ++ [Event.wr 0x02 (enableByte cmd)] := by
    rw [execEnable_bus, execSetup_hid, execSetup_bus, afterWrite_trace]
    rfl
  exact ⟨rfl, enableByte_eq cmd ▸ hwritten⟩

theorem anyBit_or (b m m' : Byte) : anyBit b (m ||| m') = (anyBit b m || anyBit b m') := by
  rw [Bool.eq_iff_iff]
  simp [anyBit, BitVec.and_or_distrib_left, BitVec.or_eq_zero_iff, imp_iff_not_or]

/-- The poll ends on the bits of the one mask that joins the timer bit and the done group. -/
theorem execEvent_eq_anyBit (cmd b : Byte) : execEvent params (commandMasks cmd).2 b = anyBit b (eventMask cmd) :=
  (anyBit_or b params.timerIrq _).symm

theorem anyBit_eq_true_iff {b m : Byte} : anyBit b m = true ↔ b &&& m ≠ 0 := by
  simp [anyBit]

theorem execOutcome_of_error {e : Byte} (n irqen : Byte) (he : e &&& 0x1B ≠ 0) : execOutcome params e n irqen = .error :=
  if_pos (anyBit_eq_true_iff.mpr he)

/-- Without a masked error bit the timer bit decides, where the command has it enabled (R193). -/
theorem execOutcome_of_no_error {e : Byte} (n irqen : Byte) (he : e &&& 0x1B = 0) :
    execOutcome params e n irqen = if n &&& irqen &&& 0x01 = 0 then .ok else .noTag := by
  have hbit : anyBit e errMask = false := anyBit_eq_false_iff.mpr he
  have htimer : anyBit (n &&& irqen) params.timerIrq = true ↔ n &&& irqen &&& 0x01 ≠ 0 := anyBit_eq_true_iff
  simp only [execOutcome, hbit, htimer, Bool.false_eq_true, if_false, ne_eq, ite_not]

/-- Only a Transceive has the timer bit enabled (R183). -/
theorem timer_bit_of_enabled (cmd n : Byte) :
    n &&& (commandMasks cmd).1 &&& 0x01 = if cmd = 0x0C then n &&& 0x01 else 0 := by
  by_cases ht : cmd = 0x0C
  · rw [if_pos ht, ht, commandMasks_transceive, BitVec.and_assoc]; rfl
  by_cases ha : cmd = 0x0E
  · rw [if_neg ht, ha, commandMasks_authent, BitVec.and_assoc]; exact BitVec.and_zero
  · rw [if_neg ht, commandMasks_other ha ht, BitVec.and_assoc]; exact BitVec.and_zero

/-! ### The bit count. -/

/-- The bit count with a last-bits field, modulo 2^16 (R190). -/
theorem bitCount_of_lastbits {l : Byte} {lb : BitVec 3} (h : lb ≠ 0) :
    ((bitCount l lb).toNat : Int) = (((l.toNat : Int) - 1) * 8 + lb.toNat) % 65536 := by
  rw [bitCount, if_neg h]
  bv_omega

/-- Settles O40: an empty FIFO with a last-bits field is the one case where the subtraction of R190 wraps. -/
theorem bitCountFormula : Obligations.BitCountFormula := by
  unfold Obligations.BitCountFormula
  refine fun l lb => ⟨fun h => ?_, bitCount_of_lastbits, fun h h0 => ?_⟩
  · rw [bitCount, if_pos h]
    bv_omega
  · have hcount := bitCount_of_lastbits (l := l) h
    have hzero : l.toNat = 0 := by rw [h0]; rfl
    omega

/-! ### The drain count. -/

theorem drainCount_of_small {l : Byte} (h1 : 1 ≤ l.toNat) (h16 : l.toNat ≤ 16) : (drainCount l).toNat = l.toNat := by
  have hne : l ≠ 0 := by rintro rfl; exact absurd h1 (by decide)
  rw [drainCount, if_neg hne, if_pos (show l.toNat ≤ drainCap from h16), BitVec.toNat_setWidth]
  exact Nat.mod_eq_of_lt (by omega)

theorem drainCount_of_large {l : Byte} (h : 16 < l.toNat) : drainCount l = 16 := by
  have hne : l ≠ 0 := by rintro rfl; exact absurd h (by decide)
  exact (if_neg hne).trans (if_neg (Nat.not_le.mpr h))

end Sys2Proof.Proofs

/-! PROOF. The command executor on ready answers, part by part: its opening, the start-send, the polls with the stop-send, and the
outcome over the error register and the drain. -/

namespace Sys2Proof.Proofs

open Sys2Proof.Machine Sys2Proof.Safety

/-! ### Answers taken. -/

/-- From `s` to `t` the PCD's ready answers are taken down to `rest`, and the trace grows by `evs`. -/
def Exchanges (s t : State) (rest : List Byte) (evs : List Event) : Prop :=
  t.bus.answers = rest ∧ t.bus.trace = s.bus.trace ++ evs

theorem Exchanges.trans {s t u : State} {rest rest' : List Byte} {evs evs' : List Event} (h : Exchanges s t rest evs)
    (k : Exchanges t u rest' evs') : Exchanges s u rest' (evs ++ evs') :=
  ⟨k.1, by rw [k.2, h.2, List.append_assoc]⟩

theorem exchanges_of_bus {s t : State} (h : t.bus = s.bus) : Exchanges s t s.bus.answers [] := ⟨by rw [h], by simp [h]⟩

theorem exchanges_afterWrite {s t : State} {a : RegAddr} {v : Byte} (h : t.bus = afterWrite a v s.bus) :
    Exchanges s t s.bus.answers [.wr a v] := ⟨by simp [h], by simp [h]⟩

theorem exchanges_afterRead {s t : State} {a : RegAddr} {v : Byte} {rest : List Byte} (hans : s.bus.answers = v :: rest)
    (h : t.bus = afterRead a s.bus) : Exchanges s t rest [.rd a v] :=
  ⟨by simp [h, hans], by simp [h, nextAnswer_of_cons hans]⟩

theorem exchanges_setBits {s : State} {a m v : Byte} {rest : List Byte} (hans : s.bus.answers = v :: rest) :
    Exchanges s (setBits params a m s) rest [.rd (a.setWidth 6) v, .wr (a.setWidth 6) (v ||| m)] :=
  ⟨by simp [hans], by simp [nextAnswer_of_cons hans]⟩

theorem exchanges_clearBits {s : State} {a m v : Byte} {rest : List Byte} (hans : s.bus.answers = v :: rest) :
    Exchanges s (clearBits params a m s) rest [.rd (a.setWidth 6) v, .wr (a.setWidth 6) (v &&& ~~~m)] :=
  ⟨by simp [hans], by simp [nextAnswer_of_cons hans]⟩

/-! ### Steps 1 to 5. -/

/-- What step 1 puts into `commandRegs`: the masks, and the outcome that stands until step 8 (R181, R182). -/
def freshRegs (cmd : Byte) : Byte × Byte × Byte × Status × BitVec 16 × BitVec 5 × Vector Byte 16 :=
  (cmd, (commandMasks cmd).1, (commandMasks cmd).2, .error, 0, 0, Vector.replicate 16 0)

/-- Steps 1 to 4 up to Idle (R181). -/
def execPrepared (cmd : Byte) (s : State) : State :=
  issueCommand cmdIdleByte (setBits params regFifolevel params.fifoFlush
    (clearIrq params (execEnable params (execSetup cmd s))))

theorem execPrepared_hid (cmd : Byte) (s : State) : (execPrepared cmd s).hid.frame = s.hid.frame ∧
    (execPrepared cmd s).hid.flen = s.hid.flen ∧ commandRegs (execPrepared cmd s).hid = freshRegs cmd := by
  simp [execPrepared, clearIrq, commandRegs, freshRegs]

theorem execPrepared_run {cmd : Byte} {s : State} {f l : Byte} {rest : List Byte} (hans : s.bus.answers = f :: l :: rest) :
    Exchanges s (execPrepared cmd s) rest (execHead (enableByte cmd) f l) := by
  have hset : Exchanges s (execSetup cmd s) (f :: l :: rest) [] := hans ▸ exchanges_of_bus (execSetup_bus cmd s)
  have henable : Exchanges (execSetup cmd s) (execEnable params (execSetup cmd s)) (f :: l :: rest)
      [Event.wr 0x02 (enableByte cmd)] := hset.1 ▸ exchanges_afterWrite (execEnable_bus params (execSetup cmd s))
  have hclear := exchanges_clearBits (a := params.regIrqst) (m := params.irqClearMask) henable.1
  have hflush := exchanges_setBits (a := regFifolevel) (m := params.fifoFlush) hclear.1
  have hidle : Exchanges _ (execPrepared cmd s) rest [Event.wr 0x01 0x00] :=
    hflush.1 ▸ exchanges_afterWrite (issueCommand_bus cmdIdleByte _)
  exact hset.trans (henable.trans (hclear.trans (hflush.trans hidle)))

/-- Steps 1 to 4 (R181). -/
def execCommanded (cmd : Byte) (s : State) : State := execCommand (execFifo (execPrepared cmd s))

theorem execCommanded_run {cmd : Byte} {s : State} {f l : Byte} {rest : List Byte} (hf : s.hid.flen.toNat ≤ 64)
    (hans : s.bus.answers = f :: l :: rest) :
    commandRegs (execCommanded cmd s).hid = freshRegs cmd ∧ Exchanges s (execCommanded cmd s) rest
      (execOpening (enableByte cmd) f l (firstBytes s.hid.frame s.hid.flen.toNat) cmd) := by
  obtain ⟨hframe, hflen, hregs⟩ := execPrepared_hid cmd s
  have hprepared := execPrepared_run (cmd := cmd) hans
  obtain ⟨-, -, -, -, hhid, -, hanswers, -, -, htrace⟩ :=
    fifoWrite_spec (execPrepared cmd s).hid.flen.toNat (execPrepared cmd s) (hflen ▸ hf)
  rw [hframe, hflen] at htrace
  have hpushed : Exchanges (execPrepared cmd s) (execFifo (execPrepared cmd s)) rest
      (fifoWrites (firstBytes s.hid.frame s.hid.flen.toNat)) := ⟨hanswers.trans hprepared.1, by rw [execFifo, hflen, htrace]⟩
  have hregs' : commandRegs (execFifo (execPrepared cmd s)).hid = freshRegs cmd := by
    rw [execFifo, hhid]; exact hregs
  have hcmdr : (execFifo (execPrepared cmd s)).hid.cmdr = cmd := congrArg Prod.fst hregs'
  have hcommand : Exchanges (execFifo (execPrepared cmd s)) (execCommanded cmd s) rest [Event.wr 0x01 cmd] := by
    have hwritten := exchanges_afterWrite (execCommand_bus (execFifo (execPrepared cmd s)))
    rwa [hpushed.1, hcmdr] at hwritten
  refine ⟨by rw [execCommanded, execCommand_hid, hregs'], ?_⟩
  rw [execOpening_eq, List.append_assoc]
  exact hprepared.trans (hpushed.trans hcommand)

/-- Step 5 takes an answer for a Transceive only (R187): `starts` is that one byte, or none. -/
theorem execSend_run {s : State} {starts rest : List Byte}
    (hstarts : starts.length = if s.hid.cmdr = 0x0C then 1 else 0) (hans : s.bus.answers = starts ++ rest) :
    commandRegs (execSend params s).hid = commandRegs s.hid ∧
    Exchanges s (execSend params s) rest (starts.flatMap startSend) := by
  by_cases hcmdr : s.hid.cmdr = 0x0C
  · rw [if_pos hcmdr] at hstarts
    obtain ⟨b, rfl⟩ := List.length_eq_one_iff.mp hstarts
    rw [show execSend params s = setBits params regBitframing params.startSend s from if_pos hcmdr]
    exact ⟨by simp [commandRegs], exchanges_setBits hans⟩
  · rw [if_neg hcmdr] at hstarts
    obtain rfl := List.length_eq_zero_iff.mp hstarts
    rw [show execSend params s = s from if_neg hcmdr]
    exact ⟨rfl, hans, by simp⟩

/-! ### Steps 6 and 7. -/

/-- The state that `Exec(cmd)` leaves to its steps 8 and 9: the poll ended at `n` after `k` bytes without an event. -/
def Waited (cmd : Byte) (k : Nat) (n : Byte) (u : State) : Prop :=
  pollRegs u.hid = (n, BitVec.ofNat 16 (1999 - k), freshRegs cmd)

/-- Steps 6 and 7: the poll ends at the byte `n`, by an event or because the counter is used up, and the stop-send follows (R188,
R194). -/
theorem execPoll_stop_run {cmd : Byte} {s : State} {quiet : List Byte} {n b2 : Byte} {rest : List Byte}
    (hregs : commandRegs s.hid = freshRegs cmd) (hans : s.bus.answers = quiet ++ n :: b2 :: rest)
    (hpolls : quiet.length ≤ 1999) (hquiet : ∀ b ∈ quiet, b &&& eventMask cmd = 0)
    (hend : n &&& eventMask cmd ≠ 0 ∨ quiet.length = 1999) :
    let u := execStop params (execPoll params execPollMax (setCnt (BitVec.ofNat 16 execPollMax) s))
    Waited cmd quiet.length n u ∧ Exchanges s u rest (polls 0x04 10 quiet ++ [Event.rd 0x04 n] ++ stopSend b2) := by
  have hwait : s.hid.waitirq = (commandMasks cmd).2 := congrArg (fun r => r.2.2.1) hregs
  have hrun := execPoll_run params quiet 1999 (setCnt (BitVec.ofNat 16 execPollMax) s) n (b2 :: rest)
    (by simp [execPollMax]) (by simpa using hans) hpolls
    (fun b hmem => by
      rw [setCnt_hid, hwait, execEvent_eq_anyBit]
      exact anyBit_eq_false_iff.mpr (hquiet b hmem))
    (hend.imp_left fun hn => by
      rw [setCnt_hid, hwait, execEvent_eq_anyBit]
      exact anyBit_eq_true_iff.mpr hn)
  generalize hpolled : execPoll params execPollMax (setCnt (BitVec.ofNat 16 execPollMax) s) = t
  have ht := hpolled.symm.trans hrun
  have hpoll : Exchanges s t (b2 :: rest) (polls 0x04 10 quiet ++ [Event.rd 0x04 n]) :=
    ⟨by rw [ht], by rw [ht, ← List.append_assoc]; rfl⟩
  refine ⟨?_, hpoll.trans (exchanges_clearBits hpoll.1)⟩
  rw [Waited, execStop, clearBits_hid, ht, setCnt_hid, ← hregs]
  rfl

/-- `Exec` up to its step 8, over answers that reach that far. The error register and the rest are in `execConclude`. -/
theorem executor_waits {cmd : Byte} {s : State} {f l : Byte} {starts quiet : List Byte} {n b2 : Byte} {rest : List Byte}
    (hf : s.hid.flen.toNat ≤ 64) (hans : s.bus.answers = f :: l :: (starts ++ (quiet ++ n :: b2 :: rest)))
    (hstarts : starts.length = if cmd = 0x0C then 1 else 0) (hpolls : quiet.length ≤ 1999)
    (hquiet : ∀ b ∈ quiet, b &&& eventMask cmd = 0) (hend : n &&& eventMask cmd ≠ 0 ∨ quiet.length = 1999) :
    ∃ u, executor params cmd s = execConclude params u ∧ Waited cmd quiet.length n u ∧
      Exchanges s u rest (execOpening (enableByte cmd) f l (firstBytes s.hid.frame s.hid.flen.toNat) cmd ++
        (starts.flatMap startSend ++ (polls 0x04 10 quiet ++ [Event.rd 0x04 n] ++ stopSend b2))) := by
  obtain ⟨hregs, hopen⟩ := execCommanded_run (cmd := cmd) hf hans
  have hcmdr : (execCommanded cmd s).hid.cmdr = cmd := congrArg Prod.fst hregs
  obtain ⟨hsentRegs, hsend⟩ := execSend_run (s := execCommanded cmd s) (by rw [hcmdr]; exact hstarts) hopen.1
  obtain ⟨hwaited, hpoll⟩ := execPoll_stop_run (hsentRegs.trans hregs) hsend.1 hpolls hquiet hend
  exact ⟨_, rfl, hwaited, hopen.trans (hsend.trans hpoll)⟩

/-! ### Step 8. -/

/-- The error register read and the outcome judged, over whatever the last poll showed (R193). -/
theorem execJudge_readE_run {s : State} {e : Byte} {rest : List Byte} (hans : s.bus.answers = e :: rest) :
    (execJudge params (readE params s)).hid = { s.hid with e := e, xst := execOutcome params e s.hid.n s.hid.irqen } ∧
    Exchanges s (execJudge params (readE params s)) rest [Event.rd 0x06 e] :=
  ⟨by simp [nextAnswer_of_cons hans], exchanges_afterRead hans (by rw [execJudge_bus, readE_bus]; rfl)⟩

/-- Step 8 with a masked error bit, or of another command than Transceive: nothing more is read (R189, R192). -/
theorem execResult_without_reception {s : State} {e : Byte} {rest : List Byte} (hans : s.bus.answers = e :: rest)
    (h : e &&& 0x1B ≠ 0 ∨ s.hid.cmdr ≠ 0x0C) :
    outcomeRegs (execResult params s).hid =
      (execOutcome params e s.hid.n s.hid.irqen, s.hid.xbits, s.hid.xlen, s.hid.xbuf) ∧
    Exchanges s (execResult params s) rest [Event.rd 0x06 e] := by
  obtain ⟨hhid, hread⟩ := execJudge_readE_run hans
  have hres : execResult params s = execJudge params (readE params s) := by
    simp only [execResult, hhid]
    rcases h with he | hcmdr
    · exact if_pos (anyBit_eq_true_iff.mpr he)
    · rw [if_neg (c := s.hid.cmdr = cmdTransceiveByte) hcmdr, ite_self]
  rw [hres]
  exact ⟨by rw [hhid]; rfl, hread⟩

/-- The last-bits field is the three low bits of the control register (R190). -/
theorem lastbits_eq_extract (ct : Byte) : (ct &&& params.lastbitsMask).setWidth 3 = ct.extractLsb' 0 3 := by
  revert ct; decide

/-- The reception of step 8 over ready answers (R190, R191, R200). -/
theorem execReceive_run {s : State} {lv ct : Byte} {data rest : List Byte}
    (hans : s.bus.answers = lv :: ct :: (data ++ rest)) (hdata : data.length = (drainCount lv).toNat) :
    (execReceive params s).hid.l = lv ∧
    outcomeRegs (execReceive params s).hid =
      (s.hid.xst, bitCount lv (ct.extractLsb' 0 3), drainCount lv, storeBytes s.hid.xbuf data) ∧
    Exchanges s (execReceive params s) rest ([Event.rd 0x0A lv, Event.rd 0x0C ct] ++ data.map (Event.rd 0x09)) := by
  have hlevel : Exchanges s (readL params s) (ct :: (data ++ rest)) [Event.rd 0x0A lv] :=
    exchanges_afterRead hans (readL_bus params s)
  have hcontrol : Exchanges (readL params s) (execCount (readLastbits params (readL params s))) (data ++ rest)
      [Event.rd 0x0C ct] :=
    exchanges_afterRead hlevel.1 ((execCount_bus _).trans (readLastbits_bus params (readL params s)))
  have hcounts : (execCount (readLastbits params (readL params s))).hid = { s.hid with
      l := lv, lastbits := ct.extractLsb' 0 3, xbits := bitCount lv (ct.extractLsb' 0 3), xlen := drainCount lv, i := 0 } := by
    simp only [execCount_hid, readLastbits_hid, readL_hid, nextAnswer_of_cons hans, nextAnswer_of_cons hlevel.1,
      lastbits_eq_extract]
  generalize hu : execCount (readLastbits params (readL params s)) = u at hcontrol hcounts
  have hreceive : execReceive params s = drains params data.length u := by
    rw [execReceive, hu, execDrain, hcounts, hdata]
  have hfits : u.hid.i.toNat + data.length ≤ 16 := by
    rw [hcounts, hdata]; simpa using drainCount_le lv
  obtain ⟨hdrain, hbytes⟩ := drains_run params data u rest hcontrol.1 hfits
  have hstored : (drains params data.length u).hid.xbuf = storeBytes s.hid.xbuf data :=
    (storeBytes_eq fun k => by simpa [hcounts] using hbytes k k.isLt).symm
  rw [hreceive]
  refine ⟨by rw [hdrain, hcounts], ?_, hlevel.trans (hcontrol.trans ⟨by rw [hdrain], by rw [hdrain]⟩)⟩
  rw [hdrain, outcomeRegs, hstored, hcounts]

/-- Step 8 of a Transceive without a masked error bit: the outcome is judged before the reception (R193, R200). -/
theorem execResult_of_transceive {s : State} {e lv ct : Byte} {data rest : List Byte}
    (hans : s.bus.answers = e :: lv :: ct :: (data ++ rest)) (hcmdr : s.hid.cmdr = 0x0C) (he : e &&& 0x1B = 0)
    (hdata : data.length = (drainCount lv).toNat) :
    (execResult params s).hid.l = lv ∧
    outcomeRegs (execResult params s).hid = (execOutcome params e s.hid.n s.hid.irqen,
      bitCount lv (ct.extractLsb' 0 3), drainCount lv, storeBytes s.hid.xbuf data) ∧
    Exchanges s (execResult params s) rest
      ([Event.rd 0x06 e] ++ ([Event.rd 0x0A lv, Event.rd 0x0C ct] ++ data.map (Event.rd 0x09))) := by
  obtain ⟨hhid, hread⟩ := execJudge_readE_run hans
  have hbit : anyBit e errMask = false := anyBit_eq_false_iff.mpr he
  have hres : execResult params s = execReceive params (execJudge params (readE params s)) := by
    simp only [execResult, hhid, hbit, Bool.false_eq_true, if_false]
    exact if_pos hcmdr
  obtain ⟨hl, hout, hreceive⟩ := execReceive_run hread.1 hdata
  rw [hres]
  exact ⟨hl, hout.trans (by rw [hhid]), hread.trans hreceive⟩

/-- Settles O41: the counts of R191, and the reception that reads as many bytes. -/
theorem drainCountClamp : Obligations.DrainCountClamp := by
  unfold Obligations.DrainCountClamp
  refine ⟨fun l => ⟨fun h => if_pos h, fun h => drainCount_of_small h.1 h.2, drainCount_of_large⟩, ?_⟩
  intro s e lv ct data rest hcmdr he hdata hans
  obtain ⟨hl, hout, hrun⟩ := execResult_of_transceive (rest := rest) (by simpa using hans) hcmdr he hdata
  simp only [outcomeRegs, Prod.mk.injEq] at hout
  obtain ⟨-, -, hxlen, hxbuf⟩ := hout
  have hfits : data.length ≤ 16 := hdata ▸ drainCount_le lv
  exact ⟨hl, hxlen, by rw [hxbuf]; exact firstBytes_storeBytes _ _ hfits, by simpa using hrun.2⟩

/-! ### Steps 8 and 9 behind the poll. -/

theorem receiveBuffer_nil : receiveBuffer [] = Vector.replicate 16 0 := by
  decide

theorem storeBytes_zeros (data : List Byte) : storeBytes (Vector.replicate 16 0) data = receiveBuffer data :=
  storeBytes_eq fun k => by simp [receiveBuffer]

/-- The counter used up: nothing is read any more, and the outcome is that of step 1 (R195). -/
theorem execConclude_of_timeout {cmd n : Byte} {u : State} (hw : Waited cmd 1999 n u) :
    outcomeRegs (execConclude params u).hid = (.error, 0, 0, receiveBuffer []) ∧
    Exchanges u (execConclude params u) u.bus.answers [] := by
  simp only [Waited, pollRegs, commandRegs, freshRegs, Prod.mk.injEq] at hw
  obtain ⟨-, hcnt, -, -, -, hxst, hxbits, hxlen, hxbuf⟩ := hw
  rw [show execConclude params u = u from if_pos hcnt]
  exact ⟨by rw [outcomeRegs, hxst, hxbits, hxlen, hxbuf, receiveBuffer_nil], exchanges_of_bus rfl⟩

/-- An event by poll 1999 leaves the counter above zero, so step 8 is done (R195). -/
theorem execConclude_of_event {cmd n : Byte} {k : Nat} {u : State} (hw : Waited cmd k n u) (hk : k ≤ 1998) :
    execConclude params u = execResult params u := by
  simp only [Waited, pollRegs, Prod.mk.injEq] at hw
  obtain ⟨-, hcnt, -⟩ := hw
  refine if_neg fun h0 => ?_
  have hzero := congrArg BitVec.toNat (hcnt.symm.trans h0)
  rw [BitVec.toNat_ofNat, show (0 : BitVec 16).toNat = 0 from rfl] at hzero
  omega

theorem execConclude_without_reception {cmd n e : Byte} {k : Nat} {u : State} {rest : List Byte} (hw : Waited cmd k n u)
    (hk : k ≤ 1998) (hans : u.bus.answers = e :: rest) (h : e &&& 0x1B ≠ 0 ∨ cmd ≠ 0x0C) :
    outcomeRegs (execConclude params u).hid = (execOutcome params e n (commandMasks cmd).1, 0, 0, receiveBuffer []) ∧
    Exchanges u (execConclude params u) rest [Event.rd 0x06 e] := by
  rw [execConclude_of_event hw hk]
  simp only [Waited, pollRegs, commandRegs, freshRegs, Prod.mk.injEq] at hw
  obtain ⟨hn, -, hcmdr, hirqen, -, -, hxbits, hxlen, hxbuf⟩ := hw
  obtain ⟨hout, hrun⟩ := execResult_without_reception hans (h.imp_right (hcmdr ▸ ·))
  exact ⟨by rw [hout, hn, hirqen, hxbits, hxlen, hxbuf, receiveBuffer_nil], hrun⟩

theorem execConclude_with_reception {n e lv ct : Byte} {k : Nat} {u : State} {data rest : List Byte} (hw : Waited 0x0C k n u)
    (hk : k ≤ 1998) (hans : u.bus.answers = e :: lv :: ct :: (data ++ rest)) (he : e &&& 0x1B = 0)
    (hdata : data.length = (drainCount lv).toNat) :
    outcomeRegs (execConclude params u).hid = (if n &&& 0x01 = 0 then .ok else .noTag,
      bitCount lv (ct.extractLsb' 0 3), drainCount lv, receiveBuffer data) ∧
    Exchanges u (execConclude params u) rest
      ([Event.rd 0x06 e, Event.rd 0x0A lv, Event.rd 0x0C ct] ++ data.map (Event.rd 0x09)) := by
  rw [execConclude_of_event hw hk]
  simp only [Waited, pollRegs, commandRegs, freshRegs, Prod.mk.injEq] at hw
  obtain ⟨hn, -, hcmdr, hirqen, -, -, -, -, hxbuf⟩ := hw
  obtain ⟨-, hout, hrun⟩ := execResult_of_transceive hans hcmdr he hdata
  have hstatus : execOutcome params e n (commandMasks 0x0C).1 = if n &&& 0x01 = 0 then .ok else .noTag := by
    rw [execOutcome_of_no_error n _ he, timer_bit_of_enabled, if_pos rfl]
  exact ⟨by rw [hout, hn, hirqen, hxbuf, hstatus, storeBytes_zeros], hrun⟩

end Sys2Proof.Proofs

/-! PROOF. TOCARD on ready answers: what it delivers is the outcome of `Exec`, with an event or without one. -/

namespace Sys2Proof.Proofs

open Sys2Proof.Machine Sys2Proof.Safety

/-! ### From `Exec` to TOCARD. -/

/-- TOCARD with the results `r` ends, having taken the answers down to `rest` and traced `evs`. -/
def TocardEnds (s : State) (r : Results) (rest : List Byte) (evs : List Event) : Prop :=
  ∃ t, exec .tocard s = .next t ∧ t.res = r ∧ t.opr = s.opr ∧ t.ctl = endedControl ∧ t.request = s.request ∧
    t.bus.answers = rest ∧ t.bus.trace = s.bus.trace ++ evs

/-- TOCARD delivers the outcome of `Exec` over the loaded frame (R180, R314). -/
theorem tocardEnds_of_executor {s : State} {st : Status} {bits : BitVec 16} {rlen : BitVec 5} {rbuf : Vector Byte 16}
    {rest : List Byte} {evs : List Event} (hb : s.ctl.busy = false) (hlen : s.opr.len.toNat ≤ 64)
    (hout : outcomeRegs (executor params s.opr.d (loadFrame (takeStart .tocardLoad s))).hid = (st, bits, rlen, rbuf))
    (hrun : Exchanges (loadFrame (takeStart .tocardLoad s)) (executor params s.opr.d (loadFrame (takeStart .tocardLoad s)))
      rest evs) :
    TocardEnds s { s.res with status := st, bits := bits, rlen := rlen, rbuf := rbuf } rest evs := by
  obtain ⟨⟨hopr, hres, hctl, hreq⟩, -⟩ :=
    executor_cases params s.opr.d (loadFrame (takeStart .tocardLoad s)) (by simpa using hlen)
  simp only [outcomeRegs, Prod.mk.injEq] at hout
  obtain ⟨hst, hbits, hrlen, hrbuf⟩ := hout
  refine ⟨_, hostOperation_of_ready hb, ?_⟩
  rw [bodyTocard_of_le (s := takeStart .tocardLoad s) hlen]
  exact ⟨by simp [hst, hbits, hrlen, hrbuf, hres], by simp [hopr], finish_of_started hctl, by simp [hreq], hrun.1, hrun.2⟩

/-- TOCARD over answers that reach up to the stop-send, given what the steps 8 and 9 of `Exec` do behind it. -/
theorem tocardEnds_of_conclude {s : State} {f l : Byte} {starts quiet : List Byte} {n b2 : Byte} {rest rest' : List Byte}
    {st : Status} {bits : BitVec 16} {rlen : BitVec 5} {rbuf : Vector Byte 16} {evs : List Event}
    (hb : s.ctl.busy = false) (hlen : s.opr.len.toNat ≤ 64)
    (hans : s.bus.answers = f :: l :: (starts ++ (quiet ++ n :: b2 :: rest)))
    (hstarts : starts.length = if s.opr.d = 0x0C then 1 else 0) (hpolls : quiet.length ≤ 1999)
    (hquiet : ∀ b ∈ quiet, b &&& eventMask s.opr.d = 0) (hend : n &&& eventMask s.opr.d ≠ 0 ∨ quiet.length = 1999)
    (hconclude : ∀ u, Waited s.opr.d quiet.length n u → u.bus.answers = rest →
      outcomeRegs (execConclude params u).hid = (st, bits, rlen, rbuf) ∧ Exchanges u (execConclude params u) rest' evs) :
    TocardEnds s { s.res with status := st, bits := bits, rlen := rlen, rbuf := rbuf } rest'
      (execOpening (enableByte s.opr.d) f l (firstBytes s.opr.buf s.opr.len.toNat) s.opr.d ++ starts.flatMap startSend ++
        polls 0x04 10 quiet ++ [Event.rd 0x04 n] ++ stopSend b2 ++ evs) := by
  have hframe := loadFrame_frame (takeStart .tocardLoad s) hlen
  rw [takeStart_opr] at hframe
  obtain ⟨u, hexec, hwaited, hwait⟩ := executor_waits (s := loadFrame (takeStart .tocardLoad s)) (cmd := s.opr.d)
    (by simpa using hlen) (by simpa using hans) hstarts hpolls hquiet hend
  rw [show (loadFrame (takeStart .tocardLoad s)).hid.flen = s.opr.len by simp, hframe] at hwait
  obtain ⟨hout, hrun⟩ := hconclude u hwaited hwait.1
  have hends := tocardEnds_of_executor hb hlen (hexec ▸ hout) (hexec ▸ hwait.trans hrun)
  simpa only [List.append_assoc] using hends

/-! ### The four ends of TOCARD. -/

/-- Settles O42: the reception behind an event without an error bit. -/
theorem tocardTransceiveResult : Obligations.TocardTransceiveResult := by
  unfold Obligations.TocardTransceiveResult
  intro s f l b1 quiet n b2 e lv ct data rest hb hlen hd hpolls hquiet hn he hdata hans
  have hends := tocardEnds_of_conclude (starts := [b1]) (quiet := quiet) hb hlen (by simpa using hans) (by simp [hd]) (by omega)
    (by rwa [hd, eventMask_transceive]) (.inl (by rwa [hd, eventMask_transceive]))
    fun u hw hu => execConclude_with_reception (rest := rest) (hd ▸ hw) hpolls hu he hdata
  rw [hd, enableByte_transceive] at hends
  simpa [TocardEnds] using hends

/-- Settles O43: a masked error bit behind an event. -/
theorem tocardErrorBitResult : Obligations.TocardErrorBitResult := by
  unfold Obligations.TocardErrorBitResult
  intro s f l b1 quiet n b2 e rest hb hlen hd hpolls hquiet hn he hans
  have hends := tocardEnds_of_conclude (starts := [b1]) (quiet := quiet) hb hlen (by simpa using hans) (by simp [hd]) (by omega)
    (by rwa [hd, eventMask_transceive]) (.inl (by rwa [hd, eventMask_transceive]))
    fun u hw hu => execConclude_without_reception hw hpolls hu (.inl he)
  rw [hd, enableByte_transceive, execOutcome_of_error _ _ he] at hends
  simpa [TocardEnds] using hends

/-- Settles O44: the counter ends the poll, whatever its last byte shows. -/
theorem tocardTimeoutResult : Obligations.TocardTimeoutResult := by
  unfold Obligations.TocardTimeoutResult
  rintro s f l starts quiet n b2 rest _ _ hb hlen rfl rfl hstarts hpolls hquiet hans
  have henable : enableByte s.opr.d = if s.opr.d = 0x0C then 0xF7 else if s.opr.d = 0x0E then 0x92 else 0x80 := by
    have hne : s.opr.d = 0x0E → ¬s.opr.d = 0x0C := fun ha => by rw [ha]; decide
    exact (enableByte_eq _).trans (ite_ite_comm _ _ _ _ hne)
  have hends := tocardEnds_of_conclude (starts := starts) (quiet := quiet) hb hlen (by simpa using hans) hstarts hpolls.le
    (by rwa [eventMask_eq]) (.inr hpolls)
    fun u hw hu => hu ▸ execConclude_of_timeout (hpolls ▸ hw)
  rw [← henable]
  simpa [TocardEnds] using hends

/-- Settles O45: an event of a command that neither sends nor receives; its timer bit is not enabled, so it does not tell the
status. -/
theorem tocardOtherCommandResult : Obligations.TocardOtherCommandResult := by
  unfold Obligations.TocardOtherCommandResult
  rintro s f l quiet n b2 e rest _ _ hb hlen hd rfl rfl hpolls hquiet hn hans
  have hevents : eventMask s.opr.d = if s.opr.d = 0x0E then 0x11 else 0x01 := by rw [eventMask_eq, if_neg hd]
  have henable : enableByte s.opr.d = if s.opr.d = 0x0E then 0x92 else 0x80 := by rw [enableByte_eq, if_neg hd]
  have hstatus : execOutcome params e n (commandMasks s.opr.d).1 = if e &&& 0x1B = 0 then .ok else .error := by
    by_cases he : e &&& 0x1B = 0
    · rw [execOutcome_of_no_error _ _ he, timer_bit_of_enabled, if_neg hd, if_pos he, if_pos rfl]
    · rw [execOutcome_of_error _ _ he, if_neg he]
  have hends := tocardEnds_of_conclude (starts := []) (quiet := quiet) hb hlen (by simpa using hans) (if_neg hd).symm (by omega)
    (by rwa [hevents]) (.inl (by rwa [hevents]))
    fun u hw hu => execConclude_without_reception hw hpolls hu (.inr hd)
  rw [← henable]
  simpa [TocardEnds, hstatus] using hends

end Sys2Proof.Proofs

/-! PROOF. ISPRESENT is WRITEREG and then TOCARD: `Exec` does not look at the operands, so it runs alike over the frame that either
operation has put into the hidden registers. -/

namespace Sys2Proof.Proofs

open Sys2Proof.Machine Sys2Proof.Safety

/-! ### Step lists that do not look at the host's side. -/

/-- The bus and the hidden registers of `s` behind the operands, results, handshake and request port of `h`. -/
def behind (h s : State) : State := { h with hid := s.hid, bus := s.bus }

theorem behind_eq_self {s t : State} (hhid : t.hid = s.hid) (hbus : t.bus = s.bus) : behind t s = t := by
  rw [behind, ← hhid, ← hbus]

/-- A step list that reads and writes the bus and the hidden registers only. -/
def Oblivious (f : State → State) : Prop := ∀ h s, f (behind h s) = behind h (f s)

/-- From the same bus and hidden registers it comes to the same bus and hidden registers. -/
theorem Oblivious.eq_behind {f : State → State} (hf : Oblivious f) {s t : State} (hhid : t.hid = s.hid)
    (hbus : t.bus = s.bus) : f t = behind t (f s) := by
  rw [← hf, behind_eq_self hhid hbus]

theorem oblivious_id : Oblivious fun s => s := fun _ _ => rfl

theorem Oblivious.andThen {f g : State → State} (hf : Oblivious f) (hg : Oblivious g) : Oblivious fun s => g (f s) :=
  fun h s => (congrArg g (hf h s)).trans (hg h (f s))

/-- What is done may depend on the hidden registers. -/
theorem Oblivious.chosen {f : Hidden → State → State} (hf : ∀ x, Oblivious (f x)) : Oblivious fun s => f s.hid s :=
  fun h s => hf s.hid h s

theorem Oblivious.ite {f g : State → State} (hf : Oblivious f) (hg : Oblivious g) (P : Prop) [Decidable P] :
    Oblivious fun s => if P then f s else g s := by
  split
  · exact hf
  · exact hg

/-- A counted loop. -/
theorem Oblivious.loop {turn : State → State} {loop : Nat → State → State} (hturn : Oblivious turn)
    (loop_zero : ∀ s, loop 0 s = s) (loop_succ : ∀ k s, loop (k + 1) s = loop k (turn s)) (k : Nat) : Oblivious (loop k) := by
  induction k with
  | zero => intro h s; rw [loop_zero, loop_zero]
  | succ k ih => intro h s; rw [loop_succ, loop_succ, hturn, ih]

section Exec

variable (p : Config.Params)

theorem setBits_oblivious (a m : Byte) : Oblivious (setBits p a m) := fun h s => by
  rw [setBits_eq, setBits_eq]; rfl

theorem clearBits_oblivious (a m : Byte) : Oblivious (clearBits p a m) := fun h s => by
  rw [clearBits_eq, clearBits_eq]; rfl

theorem execFifo_oblivious : Oblivious execFifo := by
  have start : Oblivious (setI 0) := fun _ _ => rfl
  have turn : Oblivious fifoPush := fun _ _ => rfl
  have pushes := turn.loop (loop := fifoPushes) (fun _ => rfl) fun _ _ => rfl
  exact .chosen fun x => start.andThen (pushes x.flen.toNat)

theorem execSend_oblivious : Oblivious (execSend p) := by
  have send := setBits_oblivious p regBitframing p.startSend
  exact .chosen fun x => send.ite oblivious_id (x.cmdr = cmdTransceiveByte)

theorem execPoll_oblivious (f : Nat) : Oblivious (execPoll p f) := by
  induction f with
  | zero => exact oblivious_id
  | succ f ih =>
    have turn : Oblivious (execPollTurn p) := fun _ _ => rfl
    have wait : Oblivious (delay execPollDelayMs) := fun _ _ => rfl
    exact turn.andThen (.chosen fun x => oblivious_id.ite (wait.andThen ih) (execPollDone p x = true))

theorem execReceive_oblivious : Oblivious (execReceive p) := by
  have level : Oblivious (readL p) := fun _ _ => rfl
  have control : Oblivious (readLastbits p) := fun _ _ => rfl
  have count : Oblivious execCount := fun _ _ => rfl
  have turn : Oblivious (drainOne p) := fun _ _ => rfl
  have drain : Oblivious (execDrain p) :=
    .chosen fun x => turn.loop (loop := drains p) (fun _ => rfl) (fun _ _ => rfl) x.xlen.toNat
  have received := ((level.andThen control).andThen count).andThen drain
  exact received

theorem execConclude_oblivious : Oblivious (execConclude p) := by
  have error : Oblivious (readE p) := fun _ _ => rfl
  have judge : Oblivious (execJudge p) := fun _ _ => rfl
  have receive (x : Hidden) := (execReceive_oblivious p).ite oblivious_id (x.cmdr = cmdTransceiveByte)
  have result : Oblivious (execResult p) :=
    (error.andThen judge).andThen (.chosen fun x => oblivious_id.ite (receive x) (anyBit x.e errMask = true))
  exact .chosen fun x => oblivious_id.ite result (x.cnt = 0)

/-- `Exec` does not look at the host's side: the frame it sends is in the hidden registers (R181). -/
theorem executor_oblivious (cmd : Byte) : Oblivious (executor p cmd) := by
  have setup : Oblivious (execSetup cmd) := fun _ _ => rfl
  have enable : Oblivious (execEnable p) := fun _ _ => rfl
  have clear : Oblivious (clearIrq p) := clearBits_oblivious p p.regIrqst p.irqClearMask
  have flush := setBits_oblivious p regFifolevel p.fifoFlush
  have idle : Oblivious (issueCommand cmdIdleByte) := fun _ _ => rfl
  have command : Oblivious execCommand := fun _ _ => rfl
  have start : Oblivious (setCnt (BitVec.ofNat 16 execPollMax)) := fun _ _ => rfl
  have stop : Oblivious (execStop p) := clearBits_oblivious p regBitframing p.startSend
  have opened := (((setup.andThen enable).andThen clear).andThen flush).andThen idle
  have sent := ((opened.andThen execFifo_oblivious).andThen command).andThen (execSend_oblivious p)
  exact (((sent.andThen start).andThen (execPoll_oblivious p execPollMax)).andThen stop).andThen (execConclude_oblivious p)

end Exec

/-! ### TOCARD and ISPRESENT. -/

/-- A host operation whose step list the sequencer performs, from its start to its end (R28). -/
theorem Performs.ends {p : Config.Params} {q : Seq} {body : State → State} (h : Performs p q body) {s : State}
    (hb : s.ctl.busy = false) : ∃ t, hostOperation q body s = .next t ∧ t.opr = s.opr ∧ t.ctl = endedControl ∧
      t.request = s.request ∧ t.res = (body (takeStart q s)).res ∧ t.bus = (body (takeStart q s)).bus := by
  have hreach := h (takeStart q s) rfl
  obtain ⟨hreq, hstart⟩ := hreach.keeps
  obtain ⟨-, hopr⟩ := hreach.extends
  have hctl : (finish (body (takeStart q s))).ctl = endedControl := by
    rw [finish_ctl] at hstart ⊢
    simpa [endedControl] using hstart
  exact ⟨_, hostOperation_of_ready hb, hopr, hctl, hreq, finish_res _, finish_bus _⟩

/-- TOCARD of a Transceive does what an operation does that has put the same frame into the hidden registers by itself, and
delivers the outcome of `Exec` unchanged (R180, R314). -/
theorem tocard_of_transceive {s x : State} (hb : s.ctl.busy = false) (hd : s.opr.d = 0x0C) (hlen : s.opr.len.toNat ≤ 64)
    (hhid : (loadFrame s).hid = x.hid) (hbus : s.bus = x.bus) :
    ∃ v, exec .tocard s = .next v ∧ v.bus = (transceive params x).bus ∧
      v.res = { s.res with
        status := (transceive params x).hid.xst, bits := (transceive params x).hid.xbits,
        rlen := (transceive params x).hid.xlen, rbuf := (transceive params x).hid.xbuf } := by
  have hexec := (executor_oblivious params s.opr.d).eq_behind (s := x) (t := loadFrame (takeStart .tocardLoad s))
    (by simpa using hhid) (by simpa using hbus)
  have hsent : executor params s.opr.d x = transceive params x := by rw [hd]; rfl
  rw [hsent] at hexec
  refine ⟨_, hostOperation_of_ready hb, ?_⟩
  rw [bodyTocard_of_le (s := takeStart .tocardLoad s) hlen, takeStart_opr, hexec]
  generalize transceive params x = y
  exact ⟨rfl, by simp [behind]⟩

/-- ISPRESENT ends with the gate on the outcome of the request (R213). -/
theorem exec_ispresent_run {s x : State} (hb : s.ctl.busy = false)
    (hx : sendRequest params s.opr.d (takeStart .ispresentFraming s) = x) :
    ∃ t, exec .ispresent s = .next t ∧ t.bus = x.bus ∧ t.opr = s.opr ∧ t.ctl = endedControl ∧
      t.res = { s.res with
        status := presenceGate x.hid.xst x.hid.xbits, bits := x.hid.xbits, rlen := x.hid.xlen, rbuf := x.hid.xbuf } := by
  obtain ⟨t, hrun, hopr, hctl, -, hres, hbus⟩ := (ispresent_performs params).ends hb
  have hkept : x.res = s.res := by
    rw [← hx, sendRequest, transceive_keeps_res params (by simp)]
    simp
  rw [bodyIspresent, takeStart_opr, hx] at hres hbus
  exact ⟨t, hrun, by rw [hbus, deliver_bus], hopr, hctl, by rw [hres, deliver_res, hkept]⟩

/-- Settles O47: ISPRESENT has put the frame into the hidden registers that TOCARD loads from `BUF`. -/
theorem ispresentIsWriteregThenTocard : Obligations.IspresentIsWriteregThenTocard := by
  unfold Obligations.IspresentIsWriteregThenTocard
  intro s hb
  obtain ⟨t, hrun, hbus, hopr, hctl, hres⟩ := exec_ispresent_run hb rfl
  have hwrite := writeregResult { s with opr := { s.opr with a := 0x0D, d := 0x07 } } hb
  have hframe : firstBytes (storeBytes s.opr.buf [s.opr.d]) 1 = [s.opr.d] := firstBytes_storeBytes _ _ (by simp)
  obtain ⟨v, htocard, hvbus, hvres⟩ := tocard_of_transceive
    (s := { s with
      opr := { s.opr with a := 0x0D, d := 0x0C, buf := storeBytes s.opr.buf [s.opr.d], len := 1 },
      ctl := endedControl, bus := afterWrite 0x0D 0x07 s.bus })
    (x := frameRequest s.opr.d (busWrite regBitframing params.bitframingShort (takeStart .ispresentFraming s)))
    rfl rfl (by simp) (by simp [hframe]) (by rw [frameRequest_bus, busWrite_eq]; rfl)
  refine ⟨t, _, v, hrun, hwrite, htocard, hbus.trans hvbus.symm, hopr, hctl, ?_⟩
  rw [hres, hvres]
  rfl

end Sys2Proof.Proofs

/-! PROOF. WAITPRESENT and WAITREMOVED on ready answers: turns up to the first match, or up to the tick count. -/

namespace Sys2Proof.Proofs

open Sys2Proof.Machine Sys2Proof.Safety

/-! ### Answers up to the first match. -/

/-- The bytes a wait operation polls without a match, at most `c` of them (R218, R224). -/
def missesOf (m : Byte → Bool) (c : Nat) (answers : List Byte) : List Byte := (answers.take c).takeWhile fun b => !m b

/-- A wait of at most `c` turns over ready answers, by its results and its trace: the events `turn` of each miss and then, where
a match comes in time, the events `found` of the byte matched and the byte after it. -/
def WaitRuns (m : Byte → Bool) (turn : Byte → List Event) (found : Byte → Byte → List Event) (c : Nat) (s t : State) : Prop :=
  let misses := missesOf m c s.bus.answers
  t.res = { s.res with flag := decide (misses.length < c) } ∧
  t.bus.trace = s.bus.trace ++ misses.flatMap turn ++
    if misses.length < c then found (s.bus.answers.getD misses.length 0) (s.bus.answers.getD (misses.length + 1) 0) else []

section WaitRuns

variable {m : Byte → Bool} {turn : Byte → List Event} {found : Byte → Byte → List Event} {c : Nat} {s s' t : State} {a : Byte}
  {rest : List Byte}

theorem waitRuns_zero : WaitRuns m turn found 0 s (setFlag false s) := by
  simp [WaitRuns, missesOf]

theorem waitRuns_of_match (hans : s.bus.answers = a :: rest) (hm : m a = true) (hres : t.res = { s.res with flag := true })
    (htrace : t.bus.trace = s.bus.trace ++ found a (rest.getD 0 0)) : WaitRuns m turn found (c + 1) s t := by
  simp [WaitRuns, missesOf, hans, hm, hres, htrace]

/-- A turn without a match, and the turns after it. -/
theorem WaitRuns.of_miss (h : WaitRuns m turn found c s' t) (hans : s.bus.answers = a :: s'.bus.answers) (hm : m a = false)
    (hres : s'.res = s.res) (htrace : s'.bus.trace = s.bus.trace ++ turn a) : WaitRuns m turn found (c + 1) s t := by
  have hmisses : missesOf m (c + 1) s.bus.answers = a :: missesOf m c s'.bus.answers := by
    simp [missesOf, hans, hm]
  obtain ⟨htres, httrace⟩ := h
  simp only [WaitRuns, hmisses, List.length_cons, Nat.add_lt_add_iff_right]
  exact ⟨by rw [htres, hres], by rw [httrace, htrace, hans]; simp⟩

end WaitRuns

/-! ### The loop of a wait operation. -/

/-- A poll takes the next answer into `N` with the events `seen`. -/
def PollsWith (poll : State → State) (seen : Byte → List Event) : Prop :=
  ∀ (s : State) (a : Byte) (rest : List Byte), s.bus.answers = a :: rest →
    (poll s).hid = { s.hid with n := a } ∧ (poll s).res = s.res ∧ Exchanges s (poll s) rest (seen a)

/-- What follows a match adds the events `closing` of the next answer, where it has the answers it takes. -/
def ClosesWith (close : State → State) (takes : Nat) (closing : Byte → List Event) : Prop :=
  ∀ s : State, takes ≤ s.bus.answers.length →
    (close s).res = s.res ∧ (close s).bus.trace = s.bus.trace ++ closing (s.bus.answers.getD 0 0)

/-- Both wait operations are this loop over `CNT`: poll, and at a match close and end found; else wait and count down (R218,
R224). -/
theorem waitLoop_run {loop : Nat → State → State} {m : Byte → Bool} {poll close : State → State} {ms takes : Nat}
    {seen closing : Byte → List Event} (hpoll : PollsWith poll seen) (hclose : ClosesWith close takes closing)
    (loop_succ : ∀ f s, loop (f + 1) s = if s.hid.cnt = 0 then setFlag false s
      else if m (poll s).hid.n then setFlag true (close (poll s)) else loop f (countDown (delay ms (poll s)))) (c : Nat) :
    ∀ s : State, s.hid.cnt.toNat = c → c + takes ≤ s.bus.answers.length →
      WaitRuns m (fun b => seen b ++ [.delay ms]) (fun n w => seen n ++ closing w) c s (loop (c + 1) s) := by
  induction c with
  | zero =>
    intro s hcnt _
    have hzero : s.hid.cnt = 0 := eq_ofNat_of_toNat hcnt
    rw [loop_succ, if_pos hzero]
    exact waitRuns_zero
  | succ c ih =>
    intro s hcnt hlen
    have hne : s.hid.cnt ≠ 0 := by
      intro h0
      rw [h0] at hcnt
      cases hcnt
    obtain ⟨a, rest, hans⟩ := List.exists_cons_of_length_pos (l := s.bus.answers) (by omega)
    obtain ⟨hhid, hres, hafter, htrace⟩ := hpoll s a rest hans
    rw [hans, List.length_cons] at hlen
    rw [loop_succ, if_neg hne, hhid]
    cases hm : m a with
    | true =>
      obtain ⟨hclosedRes, hclosedTrace⟩ := hclose (poll s) (by rw [hafter]; omega)
      rw [if_pos rfl]
      exact waitRuns_of_match hans hm (by simp [hclosedRes, hres]) (by simp [hclosedTrace, htrace, hafter])
    | false =>
      rw [if_neg Bool.false_ne_true]
      have hrest := ih (countDown (delay ms (poll s))) (by simpa [hhid] using toNat_sub_one hcnt) (by simp [hafter]; omega)
      exact hrest.of_miss (by simp [hafter, hans]) hm (by simp [hres]) (by simp [htrace])

theorem regIrqst_address (o : Config.Open) : (paramsOf o).regIrqst.setWidth 6 = (0x04 : RegAddr) :=
  show regIrqst0.setWidth 6 = (0x04 : RegAddr) from rfl

/-- The poll of both: one read of the IRQ-status register. -/
theorem pollsWith_readN (o : Config.Open) : PollsWith (readN (paramsOf o) (paramsOf o).regIrqst) fun b => [.rd 0x04 b] :=
  fun _ _ _ hans => ⟨by simp [nextAnswer_of_cons hans], by simp,
    exchanges_afterRead hans (by rw [readN_bus, addressField_readAddressByte, regIrqst_address])⟩

/-- WAITPRESENT takes one answer more than it has turns: the byte the clear of the flags reads (R220). -/
theorem waitPresentLoop_run (o : Config.Open) {c : Nat} {s : State} (hcnt : s.hid.cnt.toNat = c)
    (hlen : c + 1 ≤ s.bus.answers.length) :
    WaitRuns o.presentMatch (fun b => [.wr 0x0D o.presentBitframing, .rd 0x04 b, .delay 5])
      (fun n w => [.wr 0x0D o.presentBitframing, .rd 0x04 n, .rd 0x04 w, .wr 0x04 (w &&& 0x7F)]) c s
      (waitPresentLoop (paramsOf o) (c + 1) s) := by
  have hpoll : PollsWith (fun s => readN (paramsOf o) (paramsOf o).regIrqst (busWrite regBitframing o.presentBitframing s))
      fun b => [.wr 0x0D o.presentBitframing, .rd 0x04 b] := by
    intro s a rest hans
    have hwrite := exchanges_afterWrite (busWrite_bus regBitframing o.presentBitframing s)
    obtain ⟨hhid, -, hread⟩ := pollsWith_readN o (busWrite regBitframing o.presentBitframing s) a rest (by simpa using hans)
    exact ⟨by simpa using hhid, by simp, hwrite.trans hread⟩
  have hclear : ClosesWith (clearIrq (paramsOf o)) 1 fun w => [.rd 0x04 w, .wr 0x04 (w &&& 0x7F)] := by
    intro s hpos
    obtain ⟨w, rest, hans⟩ := List.exists_cons_of_length_pos hpos
    have hmask : ~~~(paramsOf o).irqClearMask = 0x7F := show ~~~0x80#8 = 0x7F#8 from rfl
    exact ⟨by simp [clearIrq], by simp [clearIrq, regIrqst_address, nextAnswer_of_cons hans, hans, hmask]⟩
  exact waitLoop_run hpoll hclear (fun _ _ => rfl) c s hcnt hlen

theorem waitRemovedLoop_run (o : Config.Open) {c : Nat} {s : State} (hcnt : s.hid.cnt.toNat = c)
    (hlen : c ≤ s.bus.answers.length) :
    WaitRuns o.removedMatch (fun b => [.rd 0x04 b, .delay 1]) (fun n _ => [.rd 0x04 n]) c s
      (waitRemovedLoop (paramsOf o) (c + 1) s) := by
  have hnothing : ClosesWith (fun s => s) 0 fun _ => [] := fun s _ => ⟨rfl, by simp⟩
  exact waitLoop_run (pollsWith_readN o) hnothing (fun _ _ => rfl) c s hcnt hlen

/-! ### The two operations. -/

/-- Settles O48: the body is the loop with `CNT` at `T`. -/
theorem waitpresentResult : Obligations.WaitpresentResult := by
  unfold Obligations.WaitpresentResult
  rintro o s misses n w hb hlen rfl rfl rfl
  obtain ⟨t, hrun, hopr, hctl, hreq, hres, hbus⟩ := (waitpresent_performs (paramsOf o)).ends hb
  obtain ⟨hflag, htrace⟩ := waitPresentLoop_run o (s := setCnt s.opr.t (takeStart .waitpresentStart s)) rfl hlen
  exact ⟨t, hrun, by rintro rfl; exact hrun, hopr, hctl, hreq, hres.trans hflag, hbus ▸ htrace⟩

/-- Settles O49: the body is one write of the bit-framing register, and the loop with `CNT` at `T`. -/
theorem waitremovedResult : Obligations.WaitremovedResult := by
  unfold Obligations.WaitremovedResult
  rintro o s misses n hb hlen rfl rfl
  obtain ⟨t, hrun, hopr, hctl, hreq, hres, hbus⟩ := (waitremoved_performs (paramsOf o)).ends hb
  obtain ⟨hflag, htrace⟩ := waitRemovedLoop_run o
    (s := setCnt s.opr.t (busWrite regBitframing 0x00 (takeStart .waitremovedFraming s))) rfl hlen
  exact ⟨t, hrun, by rintro rfl; exact hrun, hopr, hctl, hreq, hres.trans hflag, hbus ▸ htrace⟩

end Sys2Proof.Proofs

/-! PROOF. READUID is WRITEREG and then TOCARD with a checksum test, and the test finds every flip of one bit. -/

namespace Sys2Proof.Proofs

open Sys2Proof.Machine Sys2Proof.Safety

/-! ### The checksum of a UID. -/

/-- The five bytes of a UID added up: the zero byte exactly when the checksum holds (R242). -/
def uidSyndrome (x : Vector Byte 16) : Byte := x[0] ^^^ x[1] ^^^ x[2] ^^^ x[3] ^^^ x[4]

theorem uidStatus_eq (st : Status) (x : Vector Byte 16) : uidStatus st x =
    if st = .ok ∧ x[0] ^^^ x[1] ^^^ x[2] ^^^ x[3] ≠ x[4] then .error else st := by
  have hfails : uidChecksumOk x = false ↔ x[0] ^^^ x[1] ^^^ x[2] ^^^ x[3] ≠ x[4] := beq_eq_false_iff_ne
  simp only [uidStatus, hfails]

theorem uidStatus_ok_eq (x : Vector Byte 16) : uidStatus .ok x = if uidSyndrome x = 0 then .ok else .error := by
  simp only [uidStatus_eq, true_and, ne_eq, ite_not]
  exact if_congr BitVec.xor_eq_zero_iff.symm rfl rfl

/-- What is added to one of the five bytes is added to their sum. -/
theorem uidSyndrome_set (x : Vector Byte 16) (k : Fin 5) (d : Byte) :
    uidSyndrome (x.set k.val (x[k.val] ^^^ d)) = uidSyndrome x ^^^ d := by
  match k with
  | 0 | 1 | 2 | 3 | 4 => simp [uidSyndrome]; ac_rfl

theorem twoPow_ne_zero (j : Fin 8) : BitVec.twoPow 8 j.val ≠ 0 := by
  revert j; decide

/-! ### READUID. -/

/-- READUID ends with the checksum test on the outcome of the anti-collision (R241). -/
theorem exec_readuid_run {s x : State} (hb : s.ctl.busy = false)
    (hx : sendAnticollision params (takeStart .readuidFraming s) = x) :
    ∃ t, exec .readuid s = .next t ∧ t.bus = x.bus ∧ t.opr = s.opr ∧ t.ctl = endedControl ∧ t.hid = x.hid ∧
      t.res = { s.res with
        status := uidStatus x.hid.xst x.hid.xbuf, bits := x.hid.xbits, rlen := x.hid.xlen, rbuf := x.hid.xbuf } := by
  obtain ⟨t, hrun, hopr, hctl, -, hres, hbus⟩ := (readuid_performs params).ends hb
  have hkept : x.res = s.res := by
    rw [← hx, sendAnticollision, transceive_keeps_res params (by simp)]
    simp
  have hhid : t.hid = x.hid := by
    cases hrun.symm.trans (hostOperation_of_ready hb)
    rw [finish_hid, bodyReaduid, deliver_hid, hx]
  rw [bodyReaduid, hx] at hres hbus
  exact ⟨t, hrun, by rw [hbus, deliver_bus], hopr, hctl, hhid, by rw [hres, deliver_res, hkept]⟩

/-- Settles O50: READUID has put the frame into the hidden registers that TOCARD loads from `BUF`. -/
theorem readuidIsWriteregThenTocard : Obligations.ReaduidIsWriteregThenTocard := by
  unfold Obligations.ReaduidIsWriteregThenTocard
  intro s hb
  obtain ⟨t, hrun, hbus, hopr, hctl, -, hres⟩ := exec_readuid_run hb rfl
  have hwrite := writeregResult { s with opr := { s.opr with a := 0x0D, d := 0x00 } } hb
  have hframe : firstBytes (storeBytes s.opr.buf [0x93, 0x20]) 2 = [0x93, 0x20] := firstBytes_storeBytes _ _ (by simp)
  obtain ⟨v, htocard, hvbus, hvres⟩ := tocard_of_transceive
    (s := { s with
      opr := { s.opr with a := 0x0D, d := 0x0C, buf := storeBytes s.opr.buf [0x93, 0x20], len := 2 },
      ctl := endedControl, bus := afterWrite 0x0D 0x00 s.bus })
    (x := frameAnticollision (busWrite regBitframing params.bitframingFull (takeStart .readuidFraming s)))
    rfl rfl (by simp) (by simpa [piccAnticoll, nvbAnticoll] using congrArg (storeBytes s.hid.frame) hframe)
    (by rw [frameAnticollision_bus, busWrite_eq]; rfl)
  refine ⟨t, _, v, hrun, hwrite, htocard, hbus.trans hvbus.symm, hopr, hctl, ?_⟩
  rw [hres, hvres, uidStatus_eq]
  rfl

/-- Settles O51: a valid UID has the sum zero, and a flipped bit puts that bit into it. -/
theorem uidSingleBitFlipsFail : Obligations.UidSingleBitFlipsFail := by
  unfold Obligations.UidSingleBitFlipsFail
  refine ⟨fun x => ?_, fun st x hst => if_neg fun h => hst h.1, fun s hb => ?_, fun x k j hok => ?_⟩
  · rw [uidStatus_eq]
    simp only [true_and, ne_eq, ite_not, eq_comm]
  · obtain ⟨t, hrun, -, -, -, hhid, hres⟩ := exec_readuid_run hb rfl
    exact ⟨t, hrun, by rw [hres, hhid], by rw [hres, hhid]⟩
  · have hvalid : uidSyndrome x = 0 := by
      by_contra hne
      rw [uidStatus_ok_eq, if_neg hne] at hok
      cases hok
    rw [uidStatus_ok_eq, uidSyndrome_set, hvalid]
    exact if_neg (by simpa using twoPow_ne_zero j)

end Sys2Proof.Proofs

/-! PROOF. SELECT is CALCCRC and then TOCARD: `Crc` and `Exec` read nothing but the bytes of the frame, so they run alike over
the frame that SELECT has built and over the frames that CALCCRC and TOCARD load. -/

namespace Sys2Proof.Proofs

open Sys2Proof.Machine Sys2Proof.Safety

/-! ### A sequence over the same bytes, behind other operands. -/

/-- A sequence that does not look at the host's side leaves the same bus and the same registers `L` from any two states with the
same bus and the same registers `K`, where it does so from states that agree on the host's side too. -/
theorem Oblivious.congr {α β : Type} {K : Hidden → α} {L : Hidden → β} {f : State → State} (hf : Oblivious f) {s t : State}
    (hagree : ∀ u, AgreeOn K s u → AgreeOn L (f s) (f u)) (hbus : t.bus = s.bus) (hhid : K t.hid = K s.hid) :
    (f t).bus = (f s).bus ∧ L (f t).hid = L (f s).hid := by
  have h := hagree (behind s t) ⟨rfl, rfl, rfl, hbus, rfl, hhid⟩
  rw [hf] at h
  exact ⟨h.bus, h.hid⟩

theorem fifoWrite_oblivious (k : Nat) : Oblivious (fifoWrite k) := by
  have start : Oblivious (setI 0) := fun _ _ => rfl
  have turn : Oblivious fifoPush := fun _ _ => rfl
  exact start.andThen (turn.loop (loop := fifoPushes) (fun _ => rfl) (fun _ _ => rfl) k)

theorem crcPoll_oblivious (p : Config.Params) (f : Nat) : Oblivious (crcPoll p f) := by
  induction f with
  | zero => exact oblivious_id
  | succ f ih =>
    have turn : Oblivious (crcPollTurn p) := fun _ _ => rfl
    exact turn.andThen (.chosen fun x => oblivious_id.ite ih (crcPollDone p x = true))

/-- `Crc` does not look at the host's side: the bytes it runs over are in the hidden registers (R161). -/
theorem crc_oblivious (p : Config.Params) (k : Nat) : Oblivious (crc p k) := by
  have clear := clearBits_oblivious p p.regCrcirq p.crcDone
  have flush := setBits_oblivious p regFifolevel p.fifoFlush
  have command : Oblivious (issueCommand cmdCalccrcByte) := fun _ _ => rfl
  have start : Oblivious (setCnt (BitVec.ofNat 16 crcPollMax)) := fun _ _ => rfl
  have low : Oblivious (readC0 p) := fun _ _ => rfl
  have mid : Oblivious (readC1 p) := fun _ _ => rfl
  have commanded := ((clear.andThen flush).andThen (fifoWrite_oblivious k)).andThen command
  exact (((commanded.andThen start).andThen (crcPoll_oblivious p crcPollMax)).andThen low).andThen mid

/-- CALCCRC does what an operation does that has put the same bytes into the frame by itself, and delivers the two bytes that
`Crc` leaves (R160). -/
theorem calccrc_of_frame {s x : State} {k : Nat} (hb : s.ctl.busy = false) (hk : s.opr.len.toNat = k) (hlen : k ≤ 64)
    (hbytes : frameBytes k x.hid = firstBytes s.opr.buf k) (hbus : x.bus = s.bus) :
    ∃ u, exec .calccrc s = .next u ∧ u.opr = s.opr ∧ u.ctl = endedControl ∧ u.bus = (crc params k x).bus ∧
      u.res = { s.res with crc0 := (crc params k x).hid.c0, crc1 := (crc params k x).hid.c1 } := by
  subst hk
  obtain ⟨u, hrun, hopr, hctl, -, hres, hubus⟩ := (calccrc_performs params).ends hb
  have hloaded : frameBytes s.opr.len.toNat (loadFrame (takeStart .calccrcLoad s)).hid = frameBytes s.opr.len.toNat x.hid :=
    (loadFrame_frame (takeStart .calccrcLoad s) hlen).trans hbytes.symm
  obtain ⟨hsame, hregs⟩ := (crc_oblivious params s.opr.len.toNat).congr (s := x) (t := loadFrame (takeStart .calccrcLoad s))
    (fun _ => crc_agree hlen) (by simp [hbus]) hloaded
  simp only [crcRegs, Prod.mk.injEq] at hregs
  obtain ⟨-, h0, h1⟩ := hregs
  have hkept := crc_keeps_res params (k := s.opr.len.toNat) (loadFrame (takeStart .calccrcLoad s)) hlen
  rw [bodyCalccrc_of_le (s := takeStart .calccrcLoad s) hlen, takeStart_opr] at hres hubus
  exact ⟨u, hrun, hopr, hctl, by rw [hubus, deliverCrc_bus, hsame], by rw [hres, deliverCrc_res, hkept, h0, h1]; simp⟩

/-- TOCARD of a Transceive does what an operation does that has put the same bytes into the frame by itself, whatever the other
hidden registers hold, and delivers the outcome of `Exec` unchanged (R180, R314). -/
theorem tocard_of_frame {s x : State} {k : Nat} (hb : s.ctl.busy = false) (hd : s.opr.d = 0x0C) (hk : s.opr.len.toNat = k)
    (hlen : k ≤ 64) (hflen : x.hid.flen = s.opr.len) (hbytes : frameBytes k x.hid = firstBytes s.opr.buf k)
    (hbus : x.bus = s.bus) :
    ∃ v, exec .tocard s = .next v ∧ v.bus = (transceive params x).bus ∧
      v.res = { s.res with
        status := (transceive params x).hid.xst, bits := (transceive params x).hid.xbits,
        rlen := (transceive params x).hid.xlen, rbuf := (transceive params x).hid.xbuf } := by
  subst hk
  obtain ⟨v, hrun, hvbus, hvres⟩ := tocard_of_transceive (x := loadFrame s) hb hd hlen rfl (loadFrame_bus s).symm
  have hloaded : frameRegs (loadFrame s).hid = frameRegs x.hid := by
    have hloadedFlen : (loadFrame s).hid.flen = s.opr.len := by simp
    simp only [frameRegs, hflen, hloadedFlen, hbytes]
    exact congrArg (s.opr.len, ·) (loadFrame_frame s hlen)
  obtain ⟨hsame, hregs⟩ := (executor_oblivious params cmdTransceiveByte).congr (s := x) (t := loadFrame s)
    (fun _ => executor_agree cmdTransceiveByte (hflen ▸ hlen)) ((loadFrame_bus s).trans hbus.symm) hloaded
  simp only [outcomeRegs, Prod.mk.injEq] at hregs
  obtain ⟨hxst, hxbits, hxlen, hxbuf⟩ := hregs
  simp only [transceive] at hvbus hvres ⊢
  rw [hxst, hxbits, hxlen, hxbuf] at hvres
  exact ⟨v, hrun, hvbus.trans hsame, hvres⟩

/-! ### A frame with its CRC appended. -/

/-- `Crc` leaves the bytes it ran over in the frame. -/
theorem crc_frameBytes (p : Config.Params) {k : Nat} (s : State) (hk : k ≤ 64) :
    frameBytes k (crc p k s).hid = frameBytes k s.hid := by
  obtain ⟨-, -, -, tmp, n, cnt, c0, c1, hhid⟩ := crc_cases p k s hk
  rw [hhid]
  rfl

theorem firstBytes_storeBytes_of_length {n k : Nat} (v : Vector Byte n) {bs : List Byte} (hk : bs.length = k) (hn : k ≤ n) :
    firstBytes (storeBytes v bs) k = bs := by
  subst hk
  exact firstBytes_storeBytes v bs hn

/-- CALCCRC over the bytes `head`, and TOCARD of a Transceive over them and the two bytes it delivers: what an operation does that
has put `head` into the frame of `x` by itself, runs `Crc`, appends and sends. -/
theorem calccrc_then_tocard {s x : State} {head : List Byte} {k : Nat} (hb : s.ctl.busy = false) (hhead : head.length = k)
    (hk : k + 2 ≤ 64) (hbytes : frameBytes k x.hid = head) (hbus : x.bus = s.bus) {c y : State} (hc : crc params k x = c)
    (hy : transceive params (appendCrc k c.hid.c0 c.hid.c1 c) = y) :
    ∃ u v, exec .calccrc { s with opr := { s.opr with buf := storeBytes s.opr.buf head, len := BitVec.ofNat 7 k } } = .next u ∧
      exec .tocard { u with opr := { u.opr with
        d := 0x0C, buf := storeBytes u.opr.buf (head ++ [u.res.crc0, u.res.crc1]), len := BitVec.ofNat 7 (k + 2) } } = .next v ∧
      u.res.crc0 = c.hid.c0 ∧ u.res.crc1 = c.hid.c1 ∧ v.bus = y.bus ∧
      v.res.status = y.hid.xst ∧ v.res.bits = y.hid.xbits ∧ v.res.rbuf = y.hid.xbuf := by
  subst hc hy
  have hlen : (BitVec.ofNat 7 k).toNat = k := Nat.mod_eq_of_lt (by omega)
  have hlen2 : (BitVec.ofNat 7 (k + 2)).toNat = k + 2 := Nat.mod_eq_of_lt (by omega)
  obtain ⟨u, hcalc, -, huctl, hubus, hures⟩ := calccrc_of_frame (x := x)
    (s := { s with opr := { s.opr with buf := storeBytes s.opr.buf head, len := BitVec.ofNat 7 k } }) hb hlen (by omega)
    (hbytes.trans (firstBytes_storeBytes_of_length _ hhead (by omega)).symm) hbus
  have hsent : frameBytes (k + 2) (appendCrc k (crc params k x).hid.c0 (crc params k x).hid.c1 (crc params k x)).hid =
      head ++ [u.res.crc0, u.res.crc1] := by
    rw [frameBytes_appendCrc hk, crc_frameBytes params x (by omega), hbytes, hures]
  obtain ⟨v, htocard, hvbus, hvres⟩ := tocard_of_frame
    (s := { u with opr := { u.opr with
      d := 0x0C, buf := storeBytes u.opr.buf (head ++ [u.res.crc0, u.res.crc1]), len := BitVec.ofNat 7 (k + 2) } })
    (x := appendCrc k (crc params k x).hid.c0 (crc params k x).hid.c1 (crc params k x)) (k := k + 2)
    (by rw [huctl]; rfl) rfl hlen2 hk (by simp)
    (hsent.trans (firstBytes_storeBytes_of_length _ (by simp [hhead]) hk).symm) (by simp [hubus])
  exact ⟨u, v, hcalc, htocard, by rw [hures], by rw [hures], hvbus, by rw [hvres], by rw [hvres], by rw [hvres]⟩

/-! ### SELECT. -/

theorem selectGate_eq (st : Status) (bits : BitVec 16) (x : Vector Byte 16) :
    selectGate st bits x = if st = .ok ∧ bits = 24 then x[0] else 0 := rfl

/-- SELECT ends with the gate on the outcome of the frame `y` it sends, which is the head that `Crc` ran over and the two bytes
that `Crc` left (R246). -/
theorem exec_select_run {s c y x : State} (hb : s.ctl.busy = false)
    (hc : crc params 7 (frameSelectHead (uidOperand s.opr) (takeStart .selectFrame s)) = c)
    (hy : appendCrc 7 c.hid.c0 c.hid.c1 c = y) (hx : transceive params y = x) :
    ∃ t, exec .select s = .next t ∧ t.bus = x.bus ∧ t.opr = s.opr ∧ t.ctl = endedControl ∧
      t.res = { s.res with val := selectGate x.hid.xst x.hid.xbits x.hid.xbuf, crc0 := c.hid.c0, crc1 := c.hid.c1 } := by
  obtain ⟨t, hrun, hopr, hctl, -, hres, hbus⟩ := (select_performs params).ends hb
  have hcrc : crcRegs x.hid = crcRegs c.hid := by
    rw [← hx, transceive, executor_crcRegs _ (by simp [← hy]), ← hy]
    simp [crcRegs]
  have hkept : x.res = s.res := by
    rw [← hx, transceive_keeps_res params (by simp [← hy]), ← hy, appendCrc_res, ← hc, crc_keeps_res params _ (by omega)]
    simp
  simp only [crcRegs, Prod.mk.injEq] at hcrc
  obtain ⟨h0, h1⟩ := hcrc
  rw [bodySelect, takeStart_opr, hc, sendSelect, hy, hx] at hres hbus
  exact ⟨t, hrun, by rw [hbus]; simp, hopr, hctl, by rw [hres]; simp [hkept, h0, h1]⟩

/-- Settles O52: SELECT has put into the frame the bytes that CALCCRC and TOCARD load from `BUF`. -/
theorem selectIsCalccrcThenTocard : Obligations.SelectIsCalccrcThenTocard := by
  unfold Obligations.SelectIsCalccrcThenTocard
  intro s head hb hhead
  have hlength : head.length = 7 := by simp [hhead, firstBytes_length]
  have hbytes : frameBytes 7 (frameSelectHead (uidOperand s.opr) (takeStart .selectFrame s)).hid = head := by
    rw [frameSelectHead_hid, show [piccSelectByte, nvbSelect] ++ uidOperand s.opr = head from hhead.symm]
    exact firstBytes_storeBytes_of_length _ hlength (by omega)
  obtain ⟨t, hrun, hbus, hopr, hctl, hres⟩ := exec_select_run hb rfl rfl rfl
  obtain ⟨u, v, hcalc, htocard, h0, h1, hvbus, hst, hbits, hrbuf⟩ :=
    calccrc_then_tocard hb hlength (by omega) hbytes (by simp) rfl rfl
  refine ⟨t, u, v, hrun, hcalc, htocard, hbus.trans hvbus.symm, hopr, hctl, ?_⟩
  rw [hres, selectGate_eq, hst, hbits, hrbuf, h0, h1]

end Sys2Proof.Proofs

/-! PROOF. The classifier: its three steps, the whole function by cases, and CLASSIFY, which writes its value to `CTYPE`. -/

namespace Sys2Proof.Proofs

open Sys2Proof.Machine Sys2Proof.Safety

/-! ### The three steps. -/

/-- The test of a mask of one bit is that bit. -/
theorem anyBit_twoPow (b : Byte) {k : Nat} (hk : k < 8) : anyBit b (.twoPow 8 k) = b.getLsbD k := by
  rw [Bool.eq_iff_iff, anyBit_eq_true_iff, BitVec.and_twoPow]
  split
  · next hbit => simpa [hbit] using twoPow_ne_zero ⟨k, hk⟩
  · next hbit => simpa using hbit

/-- The cascade step on the bit it tests (R261). -/
theorem classifyCascade_eq (d : Byte) (t : CardType) :
    classifyCascade d t = if d.getLsbD 2 then .notComplete else t := by
  rw [← anyBit_twoPow d (by omega)]
  rfl

/-- A byte outside the table keeps the type it had (R262). -/
theorem classifyTable_of_notMem {d : Byte} (h : d ∉ [0x09, 0x08, 0x18, 0x00, 0x10, 0x11, 0x01]) (t : CardType) :
    classifyTable d t = t := by
  simp only [List.mem_cons, List.not_mem_nil, or_false, not_or] at h
  obtain ⟨h09, h08, h18, h00, h10, h11, h01⟩ := h
  simp only [classifyTable, h09, h08, h18, h00, h10, h11, h01, or_self, if_false]

/-- The two overrides as one cascade: the test that comes later in the step comes first (R263). -/
theorem classifyOverride_eq (d : Byte) (t : CardType) : classifyOverride d t =
    if anyBit d 0x40 then .iso18092 else if anyBit d 0x20 then .iso14443_4 else t := rfl

/-! ### CLASSIFY. -/

/-- CLASSIFY leaves the value of the classifier in `CTYPE`, and else only the handshake changed (R260). -/
theorem exec_classify {s : State} (hb : s.ctl.busy = false) : exec .classify s =
    .next { s with ctl := endedControl, res := { s.res with ctype := classifySak s.opr.d } } :=
  hostOperation_of_commutes (body := bodyClassify) hb rfl

/-- Settles O53: the rows of the table compute, the tests are those of the single bits, and CLASSIFY is `exec_classify`. -/
theorem classifierSteps : Obligations.ClassifierSteps := by
  unfold Obligations.ClassifierSteps
  refine ⟨fun d t => ⟨?cascade, rfl, rfl, rfl, rfl, rfl, rfl, rfl, (classifyTable_of_notMem · t),
    ?iso18092, ?iso14443, ?neither⟩, ?run⟩
  case cascade => simp only [classifyCascade, sakCascade, anyBit_eq_true_iff]
  case iso18092 =>
    intro h40
    rw [classifyOverride_eq, if_pos (anyBit_eq_true_iff.mpr h40)]
  case iso14443 =>
    intro h40 h20
    rw [classifyOverride_eq, anyBit_eq_false_iff.mpr h40, anyBit_eq_true_iff.mpr h20]
    rfl
  case neither =>
    intro h40 h20
    rw [classifyOverride_eq, anyBit_eq_false_iff.mpr h40, anyBit_eq_false_iff.mpr h20]
    rfl
  case run =>
    rintro s _ hb rfl
    exact exec_classify hb

/-! ### The whole function by cases. -/

/-- The overrides decide first, then the table, and the cascade test is left for the bytes that neither decides (R264). -/
theorem classifySak_eq_cardTypeByCases (d : Byte) : classifySak d = cardTypeByCases d := by
  have h6 : anyBit d 0x40 = d.getLsbD 6 := anyBit_twoPow d (k := 6) (by omega)
  have h5 : anyBit d 0x20 = d.getLsbD 5 := anyBit_twoPow d (k := 5) (by omega)
  rw [classifySak, classifyOverride_eq, classifyCascade_eq, h6, h5]
  rfl

/-! ### The counts, by blocks of 32 bytes: the number of the block is bits 7 to 5 of the byte. -/

/-- How many of the 32 bytes of block `b` give the type. -/
def countInBlock (c : CardType) (b : Nat) : Nat :=
  (List.range 32).countP fun k => classifySak (BitVec.ofNat 8 (32 * b + k)) == c

theorem countP_range_mul (p : Nat → Bool) (m n : Nat) : (List.range (m * n)).countP p =
    ((List.range n).map fun b => (List.range m).countP fun k => p (m * b + k)).sum := by
  induction n with
  | zero => rfl
  | succ n ih =>
    rw [Nat.mul_succ, List.range_add, List.countP_append, List.countP_map, ih, List.range_succ]
    simp [Function.comp_def]

/-- A block all of whose bytes have one type. -/
theorem countInBlock_of_const {b : Nat} {t : CardType}
    (h : ∀ k < 32, classifySak (BitVec.ofNat 8 (32 * b + k)) = t) (c : CardType) :
    countInBlock c b = if t = c then 32 else 0 := by
  have hconst : countInBlock c b = (List.range 32).countP fun _ => t == c :=
    List.countP_congr fun k hk => by rw [h k (List.mem_range.mp hk)]
  rw [hconst]
  split
  · next heq => simp [heq]
  · next hne => simp [hne]

theorem getLsbD_of_block {b k i : Nat} (hk : k < 32) (hi : 5 ≤ i ∧ i < 8) :
    (BitVec.ofNat 8 (32 * b + k)).getLsbD i = b.testBit (i - 5) := by
  rw [BitVec.getLsbD_ofNat, Nat.testBit_two_pow_mul_add (i := 5) b hk, if_neg (by omega), decide_eq_true hi.2, Bool.true_and]

/-- The blocks whose bytes have bit 6. -/
theorem countInBlock_of_bit6 {b : Nat} (h6 : b.testBit 1 = true) (c : CardType) :
    countInBlock c b = if .iso18092 = c then 32 else 0 :=
  countInBlock_of_const (fun k hk => by
    rw [classifySak_eq_cardTypeByCases, cardTypeByCases, getLsbD_of_block hk (by omega), if_pos h6]) c

/-- The blocks whose bytes have bit 5 without bit 6. -/
theorem countInBlock_of_bit5 {b : Nat} (h6 : b.testBit 1 = false) (h5 : b.testBit 0 = true) (c : CardType) :
    countInBlock c b = if .iso14443_4 = c then 32 else 0 :=
  countInBlock_of_const (fun k hk => by
    rw [classifySak_eq_cardTypeByCases, cardTypeByCases, getLsbD_of_block hk (by omega), getLsbD_of_block hk (by omega),
      if_neg (Bool.eq_false_iff.mp h6), if_pos h5]) c

/-- The first block: the seven values of the table, and bit 2 of the others. -/
theorem countInBlock_zero (c : CardType) : countInBlock c 0 =
    match c with
    | .notComplete => 16
    | .unknown => 9
    | .mifarePlus => 2
    | .iso18092 | .iso14443_4 => 0
    | _ => 1 := by
  cases c <;> decide

/-- The block of bit 7 alone, which holds no value of the table: bit 2 of its bytes. -/
theorem countInBlock_four (c : CardType) : countInBlock c 4 =
    match c with
    | .notComplete | .unknown => 16
    | _ => 0 := by
  cases c <;> decide

/-- The eight blocks together. -/
theorem countP_classifySak (c : CardType) : ((List.range 256).countP fun k => classifySak (BitVec.ofNat 8 k) == c) =
    countInBlock c 0 + countInBlock c 4 + 2 * (if .iso14443_4 = c then 32 else 0) + 4 * (if .iso18092 = c then 32 else 0) := by
  have hsum : ((List.range 256).countP fun k => classifySak (BitVec.ofNat 8 k) == c) =
      ((List.range 8).map (countInBlock c)).sum := countP_range_mul _ 32 8
  have hblocks : List.range 8 = [0, 1, 2, 3, 4, 5, 6, 7] := rfl
  rw [hsum, hblocks]
  simp only [List.map_cons, List.map_nil, List.sum_cons, List.sum_nil, countInBlock_of_bit5 (b := 1) rfl rfl,
    countInBlock_of_bit6 (b := 2) rfl, countInBlock_of_bit6 (b := 3) rfl, countInBlock_of_bit5 (b := 5) rfl rfl,
    countInBlock_of_bit6 (b := 6) rfl, countInBlock_of_bit6 (b := 7) rfl]
  omega

/-- Settles O54: the function by cases, and the count of each type from those of the blocks. -/
theorem classifierByCases : Obligations.ClassifierByCases := by
  unfold Obligations.ClassifierByCases
  refine ⟨fun s hb => ?_, fun c => ?_⟩
  · rw [exec_classify hb, classifySak_eq_cardTypeByCases]
  · rw [countP_classifySak, countInBlock_zero, countInBlock_four]
    cases c <;> rfl

end Sys2Proof.Proofs

/-! PROOF. HALT is CALCCRC and then TOCARD, with the outcome of `Exec` dropped. -/

namespace Sys2Proof.Proofs

open Sys2Proof.Machine Sys2Proof.Safety

/-- The two CRC bytes appended and the frame sent: the results are untouched, and `C0` and `C1` outlast `Exec`. -/
theorem transceive_appendCrc_keeps (p : Config.Params) {k : Nat} (hk : k + 2 ≤ 64) (c0 c1 : Byte) (s : State) :
    (transceive p (appendCrc k c0 c1 s)).res = s.res ∧
    (transceive p (appendCrc k c0 c1 s)).hid.c0 = s.hid.c0 ∧ (transceive p (appendCrc k c0 c1 s)).hid.c1 = s.hid.c1 := by
  have hflen : (appendCrc k c0 c1 s).hid.flen.toNat ≤ 64 := by
    rw [appendCrc_hid, BitVec.toNat_ofNat]
    omega
  have hres := transceive_keeps_res p hflen
  have hcrc : crcRegs (transceive p (appendCrc k c0 c1 s)).hid = crcRegs (appendCrc k c0 c1 s).hid :=
    executor_crcRegs cmdTransceiveByte hflen
  simp only [crcRegs, appendCrc_hid, Prod.mk.injEq] at hcrc
  exact ⟨hres.trans (appendCrc_res k c0 c1 s), hcrc⟩

/-- HALT ends with the two bytes that `Crc` left in `c` delivered, and with the bus of the frame `x` it sent (R271). -/
theorem exec_halt_run {s c x : State} (hb : s.ctl.busy = false)
    (hc : crc params 2 (frameHaltHead (takeStart .haltFrame s)) = c)
    (hx : transceive params (appendCrc 2 c.hid.c0 c.hid.c1 c) = x) :
    ∃ t, exec .halt s = .next t ∧ t.bus = x.bus ∧ t.opr = s.opr ∧ t.ctl = endedControl ∧
      t.res = { s.res with crc0 := c.hid.c0, crc1 := c.hid.c1 } := by
  obtain ⟨t, hrun, hopr, hctl, -, hres, hbus⟩ := (halt_performs params).ends hb
  obtain ⟨hsent, h0, h1⟩ := transceive_appendCrc_keeps params (k := 2) (by omega) c.hid.c0 c.hid.c1 c
  have hcrc : c.res = s.res := by
    rw [← hc, crc_keeps_res params _ (by omega), frameHaltHead_res, takeStart_res]
  rw [bodyHalt, hc] at hres hbus
  rw [deliverCrc_res, sendHalt, hsent, h0, h1, hcrc] at hres
  exact ⟨t, hrun, by rw [hbus, deliverCrc_bus, sendHalt, hx], hopr, hctl, hres⟩

/-- Settles O55: HALT has put into the frame the bytes that CALCCRC and TOCARD load from `BUF`. -/
theorem haltIsCalccrcThenTocard : Obligations.HaltIsCalccrcThenTocard := by
  unfold Obligations.HaltIsCalccrcThenTocard
  intro s hb
  have hbytes : frameBytes 2 (frameHaltHead (takeStart .haltFrame s)).hid = [0x50, 0x00] := by
    rw [frameHaltHead_hid]
    exact firstBytes_storeBytes_of_length _ rfl (by omega)
  obtain ⟨t, hrun, hbus, hopr, hctl, hres⟩ := exec_halt_run hb rfl rfl
  obtain ⟨u, v, hcalc, htocard, h0, h1, hvbus, -⟩ :=
    calccrc_then_tocard (head := [0x50, 0x00]) (k := 2) hb rfl (by omega) hbytes (by simp) rfl rfl
  exact ⟨t, u, v, hrun, hcalc, htocard, hbus.trans hvbus.symm, hopr, hctl, by rw [hres, h0, h1]⟩

end Sys2Proof.Proofs

/-! PROOF. INIT: the events of `INIT_SEQUENCE` one step after another, between the soft reset and the version read. -/

namespace Sys2Proof.Proofs

open Sys2Proof.Machine Sys2Proof.Safety

/-- One step of `INIT_SEQUENCE` puts its own events before those of the steps after it (R278). -/
theorem initItem_trace (p : Config.Params) (it : Config.InitStep) (s : State) :
    ∃ evs, (initItem p it s).bus.trace = s.bus.trace ++ evs ∧
      ∀ {its rest}, InitTrace its rest → InitTrace (it :: its) (evs ++ rest) := by
  cases it with
  | w a v => exact ⟨[.wr (a.setWidth 6) v], by simp [initItem], fun h => ⟨_, rfl, h⟩⟩
  | s a m =>
    exact ⟨[.rd (a.setWidth 6) (nextAnswer s.bus), .wr (a.setWidth 6) (nextAnswer s.bus ||| m)], by simp [initItem],
      fun h => ⟨_, _, rfl, h⟩⟩
  | c a m =>
    exact ⟨[.rd (a.setWidth 6) (nextAnswer s.bus), .wr (a.setWidth 6) (nextAnswer s.bus &&& ~~~m)], by simp [initItem],
      fun h => ⟨_, _, rfl, h⟩⟩
  | dly ms => exact ⟨[.delay ms], by simp [initItem], fun h => ⟨_, rfl, h⟩⟩

theorem initItems_trace (p : Config.Params) (its : List Config.InitStep) : ∀ s : State,
    ∃ items, InitTrace its items ∧ (initItems p its s).bus.trace = s.bus.trace ++ items := by
  induction its with
  | nil => exact fun s => ⟨[], rfl, (List.append_nil _).symm⟩
  | cons it its ih =>
    intro s
    obtain ⟨evs, hitem, hcons⟩ := initItem_trace p it s
    obtain ⟨rest, hrest, htrace⟩ := ih (initItem p it s)
    exact ⟨evs ++ rest, hcons hrest, by rw [initItems, htrace, hitem, List.append_assoc]⟩

/-- The last read of INIT and what is concluded from it: `VAL` holds the version byte and `STATUS` its verdict (R276). -/
theorem initVersion_run (o : Config.Open) (s : State) :
    ∃ v, (initConclude (paramsOf o) (busRead (paramsOf o) regVersion s)).res =
        { s.res with val := v, status := if o.versionOk v then .ok else .error } ∧
      (initConclude (paramsOf o) (busRead (paramsOf o) regVersion s)).bus.trace = s.bus.trace ++ [.rd 0x37 v] := by
  have haddress : regVersion.setWidth 6 = (0x37 : RegAddr) := rfl
  exact ⟨nextAnswer s.bus, by simp [initConclude, initStatus, paramsOf], by simp [initConclude, haddress]⟩

/-- The body of INIT: the soft reset, the steps of `INIT_SEQUENCE` and the version read (R276). -/
theorem bodyInit_run (o : Config.Open) (s : State) :
    ∃ v items, (bodyInit (paramsOf o) s).res = { s.res with val := v, status := if o.versionOk v then .ok else .error } ∧
      InitTrace (o.initSequence s.opr.d) items ∧
      (bodyInit (paramsOf o) s).bus.trace = s.bus.trace ++ [.wr 0x01 0x0F] ++ items ++ [.rd 0x37 v] := by
  have hreset : (issueCommand cmdSoftresetByte s).bus.trace = s.bus.trace ++ [.wr 0x01 0x0F] := by
    rw [issueCommand_eq]
    rfl
  obtain ⟨⟨-, hkept, -⟩, -⟩ := initItems_cases (paramsOf o) (o.initSequence s.opr.d) (issueCommand cmdSoftresetByte s)
  obtain ⟨items, hitems, hsteps⟩ := initItems_trace (paramsOf o) (o.initSequence s.opr.d) (issueCommand cmdSoftresetByte s)
  obtain ⟨v, hres, htrace⟩ := initVersion_run o
    (initItems (paramsOf o) (o.initSequence s.opr.d) (issueCommand cmdSoftresetByte s))
  rw [hkept, issueCommand_res] at hres
  rw [hsteps, hreset] at htrace
  exact ⟨v, items, hres, hitems, htrace⟩

/-- Settles O56: the operation is its body between the start and the end of every host operation. -/
theorem initResult : Obligations.InitResult := by
  unfold Obligations.InitResult
  intro o s hb
  obtain ⟨t, hrun, hopr, hctl, hreq, hres, hbus⟩ := (init_performs (paramsOf o)).ends hb
  obtain ⟨v, items, hbodyRes, hitems, htrace⟩ := bodyInit_run o (takeStart .initReset s)
  rw [takeStart_res] at hbodyRes
  rw [takeStart_opr] at hitems
  rw [takeStart_bus] at htrace
  exact ⟨t, v, items, hrun, by rintro rfl; exact hrun, hopr, hctl, hreq, hres.trans hbodyRes, hitems, hbus ▸ htrace⟩

end Sys2Proof.Proofs

/-! PROOF. Overlap: what is started, raised or written while an operation runs; and what a host operation that was not refused so
has done. -/

namespace Sys2Proof.Proofs

open Sys2Proof.Machine Sys2Proof.Safety

/-- Every host operation is refused while another runs, whichever it is (R302). -/
theorem exec_of_busy {i : Instr} {s : State} (hi : i.format = .hop) (hb : s.ctl.busy = true) : exec i s = .fault .overlap := by
  obtain ⟨q, body, hexec, -⟩ := exists_performs_of_hop hi
  rw [hexec, hostOperation_of_busy hb]

/-- A host operation that has a next state was started while none ran, and has run from its start to its end. -/
theorem hostOperation_next {q : Seq} {body : State → State} {s t : State} (h : hostOperation q body s = .next t) :
    s.ctl.busy = false ∧ t = finish (body (takeStart q s)) := by
  cases hb : s.ctl.busy with
  | true => rw [hostOperation_of_busy hb] at h; cases h
  | false => rw [hostOperation_of_ready hb] at h; cases h; exact ⟨rfl, rfl⟩

theorem ready_of_exec_next {i : Instr} {s t : State} (hi : i.format = .hop) (h : exec i s = .next t) : s.ctl.busy = false := by
  obtain ⟨q, body, hexec, -⟩ := exists_performs_of_hop hi
  exact (hostOperation_next (hexec s ▸ h)).1

theorem hostStart_of_busy {s : State} (hb : s.ctl.busy = true) : hostStart s = .fault .overlap := if_pos hb

theorem hostWrite_of_busy {s : State} (w : HostWrite) (hb : s.ctl.busy = true) : hostWrite w s = .fault .overlap := if_pos hb

/-- Settles O11: each way to overlap is checked by its own guard on `BUSY`. -/
theorem overlapIsAFault : Obligations.OverlapIsAFault := by
  unfold Obligations.OverlapIsAFault
  intro s hb
  exact ⟨fun _ hi => exec_of_busy hi hb, fun hr hs => (step_of_no_request hr).trans (engineStep_of_overlap hs hb),
    hostStart_of_busy hb, fun w => hostWrite_of_busy w hb⟩

end Sys2Proof.Proofs

/-! PROOF. The ceilings of R347: the bus transactions and delays of each step list, added up from those of `Crc`, of `Exec` and of
the loops. -/

namespace Sys2Proof.Proofs

open Sys2Proof.Machine Sys2Proof.Safety

/-- Only the traces at the two ends count. -/
theorem grows_congr {r d : Nat} {s s' t t' : State} (h : Grows r d s t) (hs : s.bus.trace = s'.bus.trace)
    (ht : t'.bus.trace = t.bus.trace) : Grows r d s' t' := by
  obtain ⟨evs, htrace, hcost⟩ := h
  exact ⟨evs, by rw [ht, htrace, hs], hcost⟩

/-! ### Frames sent. -/

theorem grows_crc {k : Nat} (hk : k ≤ 64) (s : State) : Grows (262 + k) 0 s (crc params k s) := by
  obtain ⟨-, hcrc, -⟩ := crc_cases params k s hk
  exact hcrc

theorem grows_executor (cmd : Byte) {s : State} (hf : s.hid.flen.toNat ≤ 64) :
    Grows (2029 + s.hid.flen.toNat) 1999 s (executor params cmd s) := by
  obtain ⟨-, hexec, -⟩ := executor_cases params cmd s hf
  exact hexec

/-- A frame of `k` bytes, put into the hidden registers without a transaction, and sent. -/
theorem grows_transceive {k : Nat} {s t : State} (htrace : t.bus.trace = s.bus.trace) (hlen : t.hid.flen.toNat = k)
    (hk : k ≤ 64) : Grows (2029 + k) 1999 s (transceive params t) := by
  subst hlen
  exact grows_congr (grows_executor cmdTransceiveByte hk) htrace rfl

theorem grows_sendRequest (m : Byte) (s : State) : Grows 2031 1999 s (sendRequest params m s) := by
  have framing := Grows.busWrite regBitframing params.bitframingShort s
  exact (framing.trans (grows_transceive (k := 1) (by simp) (by simp) (by omega))).mono (by omega) (by omega)

theorem grows_sendAnticollision (s : State) : Grows 2032 1999 s (sendAnticollision params s) := by
  have framing := Grows.busWrite regBitframing params.bitframingFull s
  exact (framing.trans (grows_transceive (k := 2) (by simp) (by simp) (by omega))).mono (by omega) (by omega)

/-- The `k` bytes of a frame and its two CRC bytes, sent. -/
theorem grows_appendCrc_sent {k : Nat} (hk : k + 2 ≤ 64) (c0 c1 : Byte) (s : State) :
    Grows (2031 + k) 1999 s (transceive params (appendCrc k c0 c1 s)) := by
  have sent := grows_transceive (t := appendCrc k c0 c1 s) (s := s) (k := k + 2) (by simp) (by simp; omega) hk
  exact sent.mono (by omega) le_rfl

/-- A frame whose CRC is computed over its first `k` bytes and appended to them, and which is then sent. -/
theorem grows_crc_sent {k : Nat} (hk : k + 2 ≤ 64) (s : State) : Grows (2293 + 2 * k) 1999 s
    (transceive params (appendCrc k (crc params k s).hid.c0 (crc params k s).hid.c1 (crc params k s))) :=
  ((grows_crc (by omega) s).trans (grows_appendCrc_sent hk _ _ _)).mono (by omega) (by omega)

/-! ### The host operations. -/

theorem grows_readreg (s : State) : Grows 1 0 s (bodyReadreg params s) :=
  grows_congr (Grows.busRead params s.opr.a s) rfl (by simp [bodyReadreg])

theorem grows_calccrc (s : State) : Grows 326 0 s (bodyCalccrc params s) := by
  by_cases hlen : 64 < s.opr.len.toNat
  · have hbody : bodyCalccrc params s = refuse s := if_pos hlen
    exact (Grows.of_trace (by simp [hbody])).mono (by omega) le_rfl
  · have hle := Nat.le_of_not_lt hlen
    have hcrc := grows_crc hle (loadFrame s)
    rw [bodyCalccrc_of_le hle]
    exact (grows_congr hcrc (by simp) (by simp)).mono (by omega) le_rfl

theorem grows_tocard (s : State) : Grows 2093 1999 s (bodyTocard params s) := by
  by_cases hlen : 64 < s.opr.len.toNat
  · have hbody : bodyTocard params s = refuse s := if_pos hlen
    exact (Grows.of_trace (by simp [hbody])).mono (by omega) (by omega)
  · have hle := Nat.le_of_not_lt hlen
    have hflen : (loadFrame s).hid.flen = s.opr.len := by simp
    have hexec := grows_executor s.opr.d (s := loadFrame s) (hflen ▸ hle)
    rw [hflen] at hexec
    rw [bodyTocard_of_le hle]
    exact (grows_congr hexec (by simp) (by simp)).mono (by omega) le_rfl

theorem grows_ispresent (s : State) : Grows 2031 1999 s (bodyIspresent params s) :=
  grows_congr (grows_sendRequest s.opr.d s) rfl (by simp [bodyIspresent])

theorem grows_readuid (s : State) : Grows 2032 1999 s (bodyReaduid params s) :=
  grows_congr (grows_sendAnticollision s) rfl (by simp [bodyReaduid])

theorem grows_select (s : State) : Grows 2307 1999 s (bodySelect params s) :=
  grows_congr (grows_crc_sent (k := 7) (by omega) (frameSelectHead (uidOperand s.opr) s)) (by simp)
    (by simp [bodySelect, sendSelect])

theorem grows_halt (s : State) : Grows 2297 1999 s (bodyHalt params s) :=
  grows_congr (grows_crc_sent (k := 2) (by omega) (frameHaltHead s)) (by simp) (by simp [bodyHalt, sendHalt])

theorem grows_waitpresent (s : State) : Grows (2 * s.opr.t.toNat + 2) s.opr.t.toNat s (bodyWaitpresent params s) := by
  obtain ⟨-, -, -, -, -, -, hloop⟩ := waitPresentLoop_cases params (s.opr.t.toNat + 1) (setCnt s.opr.t s) (by simp)
  rw [setCnt_hid] at hloop
  exact grows_congr hloop (by simp) rfl

theorem grows_waitremoved (s : State) : Grows (1 + s.opr.t.toNat) s.opr.t.toNat s (bodyWaitremoved params s) := by
  have framing := Grows.busWrite regBitframing params.bitframingFull s
  obtain ⟨-, -, -, -, -, -, hloop⟩ := waitRemovedLoop_cases params (s.opr.t.toNat + 1)
    (setCnt s.opr.t (busWrite regBitframing params.bitframingFull s)) (by simp)
  rw [setCnt_hid] at hloop
  exact (framing.trans (grows_congr hloop (by simp) rfl)).mono le_rfl (by simp)

theorem grows_init (s : State) : Grows (2 + (initCost (params.initSequence s.opr.d)).1)
    (initCost (params.initSequence s.opr.d)).2 s (bodyInit params s) := by
  have reset : Grows 1 0 s (issueCommand cmdSoftresetByte s) := Grows.busWrite regCommand cmdSoftresetByte s
  obtain ⟨-, -, -, items⟩ := initItems_cases params (params.initSequence s.opr.d) (issueCommand cmdSoftresetByte s)
  have version := Grows.busRead params regVersion
    (initItems params (params.initSequence s.opr.d) (issueCommand cmdSoftresetByte s))
  exact (grows_congr (reset.trans (items.trans version)) rfl (by simp [bodyInit])).mono (by omega) (by omega)

/-! ### Every instruction. -/

/-- From `s` to `t` no more events than the ceiling of `i` over the operands of `s`. -/
def WithinCeiling (i : Instr) (s t : State) : Prop :=
  Grows (costCeiling params s.opr i).1 (costCeiling params s.opr i).2 s t

/-- The start and the end of an operation cost nothing. -/
theorem hostOperation_withinCeiling {i : Instr} {q : Seq} {body : State → State} {s t : State}
    (hbody : ∀ s, WithinCeiling i s (body s)) (h : hostOperation q body s = .next t) : WithinCeiling i s t := by
  obtain ⟨-, rfl⟩ := hostOperation_next h
  have hgrows := hbody (takeStart q s)
  rw [WithinCeiling, takeStart_opr] at hgrows
  exact grows_congr hgrows (by simp) (by simp)

/-- A word of a lower layer is run whatever `BUSY` is, without a start and an end. -/
theorem withinCeiling_of_next {i : Instr} {s t u : State} (h : WithinCeiling i s u) (ht : Host.Outcome.next u = (.next t : Out)) :
    WithinCeiling i s t := by
  cases ht
  exact h

theorem exec_withinCeiling {i : Instr} {s t : State} (h : exec i s = .next t) : WithinCeiling i s t := by
  cases i with
  | readreg => exact hostOperation_withinCeiling grows_readreg h
  | writereg => exact hostOperation_withinCeiling (fun s => Grows.busWrite s.opr.a s.opr.d s) h
  | setbits => exact hostOperation_withinCeiling (fun s => Grows.setBits params s.opr.a s.opr.d s) h
  | clrbits => exact hostOperation_withinCeiling (fun s => Grows.clearBits params s.opr.a s.opr.d s) h
  | calccrc => exact hostOperation_withinCeiling grows_calccrc h
  | tocard => exact hostOperation_withinCeiling grows_tocard h
  | ispresent => exact hostOperation_withinCeiling grows_ispresent h
  | waitpresent => exact hostOperation_withinCeiling grows_waitpresent h
  | waitremoved => exact hostOperation_withinCeiling grows_waitremoved h
  | readuid => exact hostOperation_withinCeiling grows_readuid h
  | select => exact hostOperation_withinCeiling grows_select h
  | halt => exact hostOperation_withinCeiling grows_halt h
  | init => exact hostOperation_withinCeiling grows_init h
  | classify => exact hostOperation_withinCeiling (fun s => Grows.of_trace (by simp [bodyClassify])) h
  | reservedE | reservedF => exact hostOperation_withinCeiling (fun s => Grows.of_trace (by simp)) h
  | busrd a => exact withinCeiling_of_next (Grows.busRead params (byteOfAddr a) s) h
  | buswr a v => exact withinCeiling_of_next (Grows.busWrite (byteOfAddr a) v s) h
  | cmdIdle | cmdCalccrc | cmdTransceive | cmdAuthent | cmdSoftreset | cmdOther c =>
    exact withinCeiling_of_next (Grows.busWrite regCommand _ s) h
  | piccRequest m => exact withinCeiling_of_next (grows_sendRequest m s) h
  | piccAnticollision => exact withinCeiling_of_next (grows_sendAnticollision s) h
  | piccSelect u0 u1 u2 u3 u4 c0 c1 =>
    have sent := grows_appendCrc_sent (k := 7) (by omega) c0 c1 (frameSelectHead [u0, u1, u2, u3, u4] s)
    exact withinCeiling_of_next (grows_congr sent (by simp) rfl) h
  | piccHalt c0 c1 =>
    have sent := grows_appendCrc_sent (k := 2) (by omega) c0 c1 (frameHaltHead s)
    exact withinCeiling_of_next (grows_congr sent (by simp) rfl) h

/-- Settles O23: each instruction's events are those of its parts, whose loops are bounded whatever the PCD answers. -/
theorem costCeilings : Obligations.CostCeilings := by
  unfold Obligations.CostCeilings
  intro i s t h
  exact (exec_withinCeiling h).added

end Sys2Proof.Proofs

/-! PROOF. Where `NoTag` comes from: `Exec` gives it for a Transceive only, and of the operations that write `STATUS` only TOCARD
and READUID pass it on (R292). -/

namespace Sys2Proof.Proofs

open Sys2Proof.Machine Sys2Proof.Safety

/-! ### The outcome of `Exec`. -/

theorem commandRegs_execCommanded (cmd : Byte) {s : State} (hf : s.hid.flen.toNat ≤ 64) :
    commandRegs (execCommanded cmd s).hid = freshRegs cmd := by
  obtain ⟨-, hflen, hregs⟩ := execPrepared_hid cmd s
  obtain ⟨-, -, -, -, hhid, -⟩ := fifoWrite_spec (execPrepared cmd s).hid.flen.toNat (execPrepared cmd s) (hflen ▸ hf)
  rw [execCommanded, execCommand_hid, execFifo, hhid]
  exact hregs

theorem commandRegs_execSend (s : State) : commandRegs (execSend params s).hid = commandRegs s.hid := by
  unfold execSend
  split_ifs
  · simp [commandRegs]
  · rfl

theorem commandRegs_execPoll_stop (s : State) :
    commandRegs (execStop params (execPoll params execPollMax (setCnt (BitVec.ofNat 16 execPollMax) s))).hid =
      commandRegs s.hid := by
  obtain ⟨quiet, d, -, -, -, -, -, -, -, hhid, -⟩ :=
    execPoll_cases params 1999 (setCnt (BitVec.ofNat 16 execPollMax) s) (by simp [execPollMax])
  change commandRegs (execStop params (execPoll params (1999 + 1) _)).hid = commandRegs s.hid
  rw [execStop, clearBits_hid, hhid, setCnt_hid]
  rfl

/-- `Exec` comes to its steps 8 and 9 with the registers of its step 1, whatever the PCD answers (R181). -/
theorem executor_concludes (cmd : Byte) {s : State} (hf : s.hid.flen.toNat ≤ 64) :
    ∃ u, executor params cmd s = execConclude params u ∧ commandRegs u.hid = freshRegs cmd :=
  ⟨_, rfl, (commandRegs_execPoll_stop _).trans ((commandRegs_execSend _).trans (commandRegs_execCommanded cmd hf))⟩

theorem execReceive_xst (p : Config.Params) (s : State) : (execReceive p s).hid.xst = s.hid.xst := by
  obtain ⟨data, -, -, -, -, -, ⟨x, hhid⟩, -⟩ := drains_cases p (execCount (readLastbits p (readL p s))).hid.xlen.toNat
    (execCount (readLastbits p (readL p s)))
  rw [execReceive, execDrain, hhid]
  simp

/-- Step 8 judges once; the reception leaves its judgement alone (R193). -/
theorem execResult_xst (p : Config.Params) (s : State) :
    (execResult p s).hid.xst = execOutcome p (nextAnswer s.bus) s.hid.n s.hid.irqen := by
  have hjudged : (execJudge p (readE p s)).hid.xst = execOutcome p (nextAnswer s.bus) s.hid.n s.hid.irqen := by simp
  simp only [execResult]
  split_ifs
  · exact hjudged
  · rw [execReceive_xst, hjudged]
  · exact hjudged

/-- `NoTag` needs the timer bit enabled, which only a Transceive has (R183, R193). -/
theorem execOutcome_noTag {cmd e n : Byte} (h : execOutcome params e n (commandMasks cmd).1 = .noTag) : cmd = 0x0C := by
  by_contra hcmd
  by_cases he : e &&& 0x1B = 0
  · rw [execOutcome_of_no_error n _ he, timer_bit_of_enabled, if_neg hcmd, if_pos rfl] at h
    cases h
  · rw [execOutcome_of_error n _ he] at h
    cases h

theorem executor_noTag {cmd : Byte} {s : State} (hf : s.hid.flen.toNat ≤ 64)
    (h : (executor params cmd s).hid.xst = .noTag) : cmd = 0x0C := by
  obtain ⟨u, hexec, hregs⟩ := executor_concludes cmd hf
  simp only [commandRegs, freshRegs, Prod.mk.injEq] at hregs
  obtain ⟨-, hirqen, -, hxst, -⟩ := hregs
  rw [hexec, execConclude] at h
  split_ifs at h
  · rw [hxst] at h
    cases h
  · rw [execResult_xst, hirqen] at h
    exact execOutcome_noTag h

/-! ### The operations that write `STATUS`. -/

theorem presenceGate_ne_noTag (xst : Status) (xbits : BitVec 16) : presenceGate xst xbits ≠ .noTag := by
  unfold presenceGate
  split_ifs <;> decide

theorem initStatus_ne_noTag (p : Config.Params) (v : Byte) : initStatus p v ≠ .noTag := by
  unfold initStatus
  split_ifs <;> decide

theorem bodyTocard_noTag {s : State} (h : (bodyTocard params s).res.status = .noTag) : s.opr.d = 0x0C := by
  by_cases hlen : 64 < s.opr.len.toNat
  · have hbody : bodyTocard params s = refuse s := if_pos hlen
    simp [hbody] at h
  · rw [bodyTocard_of_le (Nat.le_of_not_lt hlen), deliver_res] at h
    exact executor_noTag (by simpa using hlen) h

theorem bodyIspresent_status_ne_noTag (p : Config.Params) (s : State) : (bodyIspresent p s).res.status ≠ .noTag := by
  rw [bodyIspresent, deliver_res]
  exact presenceGate_ne_noTag _ _

theorem bodyInit_status_ne_noTag (p : Config.Params) (s : State) : (bodyInit p s).res.status ≠ .noTag := by
  rw [bodyInit, initConclude_res]
  exact initStatus_ne_noTag _ _

theorem hostOperation_status {q : Seq} {body : State → State} {s t : State} (h : hostOperation q body s = .next t) :
    t.res.status = (body (takeStart q s)).res.status := by
  obtain ⟨-, rfl⟩ := hostOperation_next h
  rw [finish_res]

/-- Settles O46: operations that leave `STATUS` alone by the matrix of R24 add no `NoTag`, and the others are taken one by one. -/
theorem noTagOnlyFromTransceive : Obligations.NoTagOnlyFromTransceive := by
  unfold Obligations.NoTagOnlyFromTransceive
  intro i s t hi h hs ht
  have hrow := exec_row hi (ready_of_exec_next hi h) h
  unfold MatrixRow at hrow
  split_ifs at hrow
  · rw [hrow] at ht
    cases ht
  cases i with
  | readuid => exact .inl rfl
  | tocard => exact .inr ⟨rfl, by simpa using bodyTocard_noTag ((hostOperation_status h).symm.trans ht)⟩
  | ispresent => exact absurd ((hostOperation_status h).symm.trans ht) (bodyIspresent_status_ne_noTag params _)
  | init => exact absurd ((hostOperation_status h).symm.trans ht) (bodyInit_status_ne_noTag params _)
  | reservedE | reservedF => cases (hostOperation_status h).symm.trans ht
  | readreg | writereg | setbits | clrbits | calccrc | halt | waitpresent | waitremoved | select | classify =>
    have hkept := congrArg Results.status hrow
    exact absurd (hkept.symm.trans ht) hs
  | _ => cases hi

end Sys2Proof.Proofs
